-- ==== Sys2Proof/Word.lean ====
section
/-!
DEFINITION. Sys2Proof/Word.lean: the widths of the block's data (R13, R15, R33).
Every value of the spec is unsigned (R13); a matrix is indexed row first, `M[r][c]` (R15).
-/
namespace Sys2Proof

/-- A byte, and a GF(2^8) element (R13, R200). -/
abbrev Byte := BitVec 8

/-- A 32-bit word: a register, a command (R13, R120). -/
abbrev Word := BitVec 32

/-- A byte offset into the 4 KiB register window, 0x000..0xFFF (R11, R80). -/
abbrev Offset := BitVec 12

/-- A block, a key register group: 16 bytes, `b[0..15]` (R15, R33). -/
abbrev Block := Vector Byte 16

/-- One column of the state or of the schedule, row 0 first (R15). -/
abbrev Column := Vector Byte 4

/-- The 4×4 state matrix, `S[r][c]` (R15, R35). -/
abbrev StateMatrix := Vector (Vector Byte 4) 4

/-- The 4×44 round key schedule, `RK[r][c]` (R15, R36). -/
abbrev Schedule := Vector (Vector Byte 44) 4

end Sys2Proof
end

