-- ==== Sys2Proof/Syntax.lean ====
section
/-!
DEFINITION. Sys2Proof/Syntax.lean: the block's commands, one constructor per row of R124.
-/
namespace Sys2Proof

/-- The 21 commands of the opcode map (R124), with the operand fields each one reads (R121, R122):
`len` is LEN, a byte count; `k` is IDX, a round number; `arg` is ARG, the byte operand. -/
inductive Instr where
  /-- NOP (R295). -/
  | nop
  /-- EXPAND_KEY len (R247). -/
  | expandKey (len : Nat)
  /-- ENCRYPT len (R298). -/
  | encrypt (len : Nat)
  /-- DECRYPT len (R299). -/
  | decrypt (len : Nat)
  /-- LOAD_STATE len (R296). -/
  | loadState (len : Nat)
  /-- STORE_STATE (R297). -/
  | storeState
  /-- SUB_BYTES (R270). -/
  | subBytes
  /-- INV_SUB_BYTES (R271). -/
  | invSubBytes
  /-- SHIFT_ROWS (R272). -/
  | shiftRows
  /-- INV_SHIFT_ROWS (R273). -/
  | invShiftRows
  /-- MIX_COLUMNS (R274). -/
  | mixColumns
  /-- INV_MIX_COLUMNS (R275). -/
  | invMixColumns
  /-- ADD_ROUND_KEY k (R276). -/
  | addRoundKey (k : Nat)
  /-- GF_MUL02 arg (R210). -/
  | gfMul02 (arg : Byte)
  /-- GF_MUL03 arg (R211). -/
  | gfMul03 (arg : Byte)
  /-- GF_MUL09 arg (R212). -/
  | gfMul09 (arg : Byte)
  /-- GF_MUL0B arg (R213). -/
  | gfMul0b (arg : Byte)
  /-- GF_MUL0D arg (R214). -/
  | gfMul0d (arg : Byte)
  /-- GF_MUL0E arg (R215). -/
  | gfMul0e (arg : Byte)
  /-- SBOX arg (R225). -/
  | sbox (arg : Byte)
  /-- INV_SBOX arg (R226). -/
  | invSbox (arg : Byte)
deriving DecidableEq, Repr

end Sys2Proof
end

