-- ==== Sys2Proof/WellFormed.lean ====
section
/-!
DEFINITION. Sys2Proof/WellFormed.lean: which commands a command word can express (R121 to R123).
An operand field can take any value its width allows; the command's own rule checks the value (R123).
-/
namespace Sys2Proof

/-- LEN is a 5-bit field (R121). -/
def lenFits (len : Nat) : Bool := decide (len < 32)

/-- IDX is a 4-bit field (R121). -/
def idxFits (k : Nat) : Bool := decide (k < 16)

/-- A command whose operands fit the fields of the command word (R121, R123). -/
def Instr.wellFormed : Instr → Bool
  | .expandKey len => lenFits len
  | .encrypt len => lenFits len
  | .decrypt len => lenFits len
  | .loadState len => lenFits len
  | .addRoundKey k => idxFits k
  | .nop => true
  | .storeState => true
  | .subBytes => true
  | .invSubBytes => true
  | .shiftRows => true
  | .invShiftRows => true
  | .mixColumns => true
  | .invMixColumns => true
  | .gfMul02 _ => true
  | .gfMul03 _ => true
  | .gfMul09 _ => true
  | .gfMul0b _ => true
  | .gfMul0d _ => true
  | .gfMul0e _ => true
  | .sbox _ => true
  | .invSbox _ => true

end Sys2Proof
end

