-- ==== Sys2Proof/Decode.lean ====
section
/-!
DEFINITION. Sys2Proof/Decode.lean: the fields of a command word, the opcode map as a table of rows,
the decoder, total on all 2^32 words, and the encoder (R120 to R128).
-/
namespace Sys2Proof

/-! ### Fields (R121, R122) -/

/-- OP = w[7:0]. -/
def opField (w : Word) : Byte := w.extractLsb' 0 8

/-- ARG = w[15:8]. -/
def argField (w : Word) : Byte := w.extractLsb' 8 8

/-- LEN = zext(w[20:16]), a number 0..31. -/
def lenField (w : Word) : Nat := (w.extractLsb' 16 5).toNat

/-- IDX = zext(w[27:24]), a number 0..15. -/
def idxField (w : Word) : Nat := (w.extractLsb' 24 4).toNat

/-- The reserved fields w[23:21] and w[31:28], which must be 0. -/
def reservedClear (w : Word) : Bool := w.extractLsb' 21 3 == 0 && w.extractLsb' 28 4 == 0

/-! ### The opcode map (R124) -/

/-- The OP values of R124. -/
def opNop : Byte := 0x00
def opExpandKey : Byte := 0x01
def opEncrypt : Byte := 0x02
def opDecrypt : Byte := 0x03
def opLoadState : Byte := 0x10
def opStoreState : Byte := 0x11
def opSubBytes : Byte := 0x12
def opInvSubBytes : Byte := 0x13
def opShiftRows : Byte := 0x14
def opInvShiftRows : Byte := 0x15
def opMixColumns : Byte := 0x16
def opInvMixColumns : Byte := 0x17
def opAddRoundKey : Byte := 0x18
def opGfMul : Byte := 0x20
def opSbox : Byte := 0x21
def opInvSbox : Byte := 0x22

/-- One row of R124: a word `w` selects it when `(w & mask) = pattern`; `build` reads its operands. -/
structure OpcodeRow where
  mnemonic : String
  pattern : Word
  mask : Word
  build : Word → Instr

/-- `(w & mask) = match` (R124). -/
def OpcodeRow.selects (row : OpcodeRow) (w : Word) : Bool := w &&& row.mask == row.pattern

/-- The rows of R124, in its order: key, block and state commands. -/
def stateRows : List OpcodeRow :=
  [ ⟨"NOP", 0x00000000, 0xFFFFFFFF, fun _ => .nop⟩,
    ⟨"EXPAND_KEY", 0x00000001, 0xFFE0FFFF, fun w => .expandKey (lenField w)⟩,
    ⟨"ENCRYPT", 0x00000002, 0xFFE0FFFF, fun w => .encrypt (lenField w)⟩,
    ⟨"DECRYPT", 0x00000003, 0xFFE0FFFF, fun w => .decrypt (lenField w)⟩,
    ⟨"LOAD_STATE", 0x00000010, 0xFFE0FFFF, fun w => .loadState (lenField w)⟩,
    ⟨"STORE_STATE", 0x00000011, 0xFFFFFFFF, fun _ => .storeState⟩,
    ⟨"SUB_BYTES", 0x00000012, 0xFFFFFFFF, fun _ => .subBytes⟩,
    ⟨"INV_SUB_BYTES", 0x00000013, 0xFFFFFFFF, fun _ => .invSubBytes⟩,
    ⟨"SHIFT_ROWS", 0x00000014, 0xFFFFFFFF, fun _ => .shiftRows⟩,
    ⟨"INV_SHIFT_ROWS", 0x00000015, 0xFFFFFFFF, fun _ => .invShiftRows⟩,
    ⟨"MIX_COLUMNS", 0x00000016, 0xFFFFFFFF, fun _ => .mixColumns⟩,
    ⟨"INV_MIX_COLUMNS", 0x00000017, 0xFFFFFFFF, fun _ => .invMixColumns⟩,
    ⟨"ADD_ROUND_KEY", 0x00000018, 0xF0FFFFFF, fun w => .addRoundKey (idxField w)⟩ ]

/-- The rows of R124, in its order: byte commands. -/
def byteRows : List OpcodeRow :=
  [ ⟨"GF_MUL02", 0x02000020, 0xFFFF00FF, fun w => .gfMul02 (argField w)⟩,
    ⟨"GF_MUL03", 0x03000020, 0xFFFF00FF, fun w => .gfMul03 (argField w)⟩,
    ⟨"GF_MUL09", 0x09000020, 0xFFFF00FF, fun w => .gfMul09 (argField w)⟩,
    ⟨"GF_MUL0B", 0x0B000020, 0xFFFF00FF, fun w => .gfMul0b (argField w)⟩,
    ⟨"GF_MUL0D", 0x0D000020, 0xFFFF00FF, fun w => .gfMul0d (argField w)⟩,
    ⟨"GF_MUL0E", 0x0E000020, 0xFFFF00FF, fun w => .gfMul0e (argField w)⟩,
    ⟨"SBOX", 0x00000021, 0xFFFF00FF, fun w => .sbox (argField w)⟩,
    ⟨"INV_SBOX", 0x00000022, 0xFFFF00FF, fun w => .invSbox (argField w)⟩ ]

/-- The opcode map (R124). -/
def opcodeRows : List OpcodeRow := stateRows ++ byteRows

/-! ### The decoder (R125, R126) -/

/-- Why a word selects no command: the four cases of R126. -/
inductive DecodeReject where
  /-- A nonzero bit in w[23:21] or w[31:28]. -/
  | reservedBits
  /-- OP in 0x04..0x0F, 0x19..0x1F or 0x23..0xFF. -/
  | undefinedOp
  /-- OP = 0x20 with IDX not one of 2, 3, 9, B, D, E. -/
  | undefinedConstant
  /-- A nonzero field that the command does not read. -/
  | unusedField
deriving DecidableEq, Repr

/-- OP in 0x04..0x0F, 0x19..0x1F or 0x23..0xFF (R126). -/
def opUndefined (op : Byte) : Bool :=
  decide (0x04 ≤ op.toNat ∧ op.toNat ≤ 0x0F) || decide (0x19 ≤ op.toNat ∧ op.toNat ≤ 0x1F)
    || decide (0x23 ≤ op.toNat)

/-- Which case of R126 a word that no row selects falls under (the first that applies). -/
def rejectReason (w : Word) : DecodeReject :=
  if !reservedClear w then .reservedBits
  else if opUndefined (opField w) then .undefinedOp
  else if opField w == opGfMul && !(idxField w ∈ [0x2, 0x3, 0x9, 0xB, 0xD, 0xE]) then .undefinedConstant
  else .unusedField

/-- The command a word selects, or why it selects none (R125). It depends on the word alone (R128). -/
def decode (w : Word) : Except DecodeReject Instr :=
  match opcodeRows.find? (fun row => row.selects w) with
  | some row => .ok (row.build w)
  | none => .error (rejectReason w)

/-! ### The encoder (R121, R129) -/

/-- The command word with the given fields, laid out as R121's bit diagram. -/
def commandWord (idx : BitVec 4) (len : BitVec 5) (arg op : Byte) : Word :=
  0#4 ++ idx ++ 0#3 ++ len ++ arg ++ op

/-- The word of a command, as R129's table writes it. Operands are cut to their fields' widths; a
well-formed command loses nothing. -/
def encode : Instr → Word
  | .nop => commandWord 0 0 0 opNop
  | .expandKey len => commandWord 0 (BitVec.ofNat 5 len) 0 opExpandKey
  | .encrypt len => commandWord 0 (BitVec.ofNat 5 len) 0 opEncrypt
  | .decrypt len => commandWord 0 (BitVec.ofNat 5 len) 0 opDecrypt
  | .loadState len => commandWord 0 (BitVec.ofNat 5 len) 0 opLoadState
  | .storeState => commandWord 0 0 0 opStoreState
  | .subBytes => commandWord 0 0 0 opSubBytes
  | .invSubBytes => commandWord 0 0 0 opInvSubBytes
  | .shiftRows => commandWord 0 0 0 opShiftRows
  | .invShiftRows => commandWord 0 0 0 opInvShiftRows
  | .mixColumns => commandWord 0 0 0 opMixColumns
  | .invMixColumns => commandWord 0 0 0 opInvMixColumns
  | .addRoundKey k => commandWord (BitVec.ofNat 4 k) 0 0 opAddRoundKey
  | .gfMul02 arg => commandWord 0x2 0 arg opGfMul
  | .gfMul03 arg => commandWord 0x3 0 arg opGfMul
  | .gfMul09 arg => commandWord 0x9 0 arg opGfMul
  | .gfMul0b arg => commandWord 0xB 0 arg opGfMul
  | .gfMul0d arg => commandWord 0xD 0 arg opGfMul
  | .gfMul0e arg => commandWord 0xE 0 arg opGfMul
  | .sbox arg => commandWord 0 0 arg opSbox
  | .invSbox arg => commandWord 0 0 arg opInvSbox

/-! ### The host's table words -/

/-- The command word of an opcode-table word `w` of `nbits` bits: the bits above `nbits` are 0. -/
def tableWord (nbits w : Nat) : Word := BitVec.ofNat 32 (w % 2 ^ nbits)

/-- The command the decoder reads from the table's word. Every command is one 32-bit word (R120). -/
def decodeTableWord (nbits w : Nat) : Option Instr :=
  if nbits ≤ 32 then (decode (tableWord nbits w)).toOption else none

end Sys2Proof
end

