-- ==== Sys2Proof/Config.lean ====
section
/-!
DEFINITION. Sys2Proof/Config.lean: the fixed parameters (R9), the OPEN parameters (R12) and the free
values (R48, R451, U1, U2). An `opaque` constant has no body: no proof can know its value.
-/
namespace Sys2Proof.Config

/-- NR, the round count (R9). -/
abbrev nr : Nat := 10

/-- NB, columns per block (R9). -/
abbrev nb : Nat := 4

/-- NK, key words (R9). -/
abbrev nk : Nat := 4

/-- The number of columns of the round key schedule (R9). -/
abbrev scheduleColumns : Nat := nb * (nr + 1)

/-- OPEN parameter behind `AES_BASE`: which 4 KiB page of the platform the window occupies (R12, D3). -/
opaque aesBasePage : Nat

/-- `AES_BASE`: the platform byte address of offset 0x000, aligned to 4 KiB (R12, 92 OPEN parameters). -/
def aesBase : Nat := 4096 * aesBasePage

/-- Whether reset is sampled on a clock edge (R12, D22). -/
inductive ResetKind where
  | synchronous
  | asynchronous
deriving DecidableEq, Repr, Inhabited

/-- The polarity of the reset input (R12, D22). -/
inductive ResetPolarity where
  | activeHigh
  | activeLow
deriving DecidableEq, Repr, Inhabited

/-- A value of `RESET_STYLE` (R12, D22). -/
structure ResetStyle where
  kind : ResetKind
  polarity : ResetPolarity
deriving DecidableEq, Repr, Inhabited

/-- OPEN parameter `RESET_STYLE`: no rule reads it, it is invisible at transaction level (R12, D22). -/
opaque resetStyle : ResetStyle

/-- Free value `RK_RESET`: what RK holds after a reset, a fresh draw for each reset (R12, R451, U1).
The argument is the draw's number, from `State.draws`. Log entry 2. -/
opaque rkReset : Nat → Schedule

/-- Free value: the word a host read of the RK window returns while KS_VALID = 0, a fresh draw that
depends on nothing (R48, R84, D41, U2). The argument is the draw's number. Log entry 3. -/
opaque rkWindowDraw : Nat → Word

end Sys2Proof.Config
end

