-- ==== Sys2Proof/Machine/State.lean ====
section
/-!
DEFINITION. Sys2Proof/Machine/State.lean: the architectural state record of R33, the model's own
fields beside it (the host's pending accesses, what its reads returned, the draw counter), the
reasons a step can stop, and the state after reset (R33, R450, R451).
-/
namespace Sys2Proof.Machine

/-- The block has no faults: every error of R400 is architected behaviour, a value in ERR and a next
state (R417). So no constructor exists, and no step ends in a fault. -/
inductive Fault
deriving DecidableEq, Repr

/-- Why a step is refused: what no rule defines (R417). -/
inductive Refusal where
  /-- Raised by `exec` for a command with no meaning yet; no arm raises it. Safe. -/
  | notModelled (mnemonic : String)
  /-- Raised by a host access that is not 32 bits wide (R81). Safe: it errs toward unprovable. -/
  | accessWidth
  /-- Raised by a host access at an offset that is no multiple of 4 (R81). Safe. -/
  | misaligned
  /-- Raised by a host access other than a STATUS read while BUSY = 1 (R458). Safe. -/
  | accessWhileBusy
deriving DecidableEq, Repr

/-- The error kinds a command can raise (R400); NONE is the absence of a raise. -/
inductive ErrorKind where
  | invalidKeyLength
  | invalidBlockLength
  | illegalCommand
  | noKeySchedule
  | invalidRoundIndex
deriving DecidableEq, Repr

/-- What a host does to the block, one action a step (R30, R88, R129, R450). -/
inductive HostAction where
  /-- `rd OFF`, or `rd OFF == V` when a claim is given (R129); `size` is the access size in bytes. -/
  | read (off : Offset) (size : Nat) (claim : Option Word)
  /-- `wr OFF, V` (R129). -/
  | write (off : Offset) (size : Nat) (v : Word)
  /-- `wait`: read STATUS until bit 2 reads 0 (R130). -/
  | wait
  /-- Reset, a step between two host accesses (R450, R454). -/
  | reset
deriving DecidableEq, Repr

/-- A read the host has made: the offset, the word returned, and the claim made of it (R129, R462). -/
structure Observation where
  off : Offset
  value : Word
  claim : Option Word
deriving DecidableEq, Repr

/-- The state. The fields down to `busy` are the record of R33, with its widths; the last three are
the model's own. -/
structure State where
  /-- KEY[0..15], raw key bytes written by the host. -/
  key : Block
  /-- DIN[0..15], the input block. -/
  din : Block
  /-- DOUT[0..15], the output block. -/
  dout : Block
  /-- STATE[r][c], the state matrix (R35). -/
  st : StateMatrix
  /-- RK[r][c], the round key schedule (R36). -/
  rk : Schedule
  /-- KS_VALID: RK holds a complete schedule (R38). -/
  ksValid : Bool
  /-- ERR_KIND: the kind of the last command's error, 0 = none (R42). -/
  errKind : BitVec 4
  /-- ERR_VAL: the offending length or round index (R42). -/
  errVal : BitVec 5
  /-- ERR_OP: the OP field of the command that failed (R42). -/
  errOp : Byte
  /-- RESULT: the result of the last byte command (R43). -/
  result : Byte
  /-- CMD: the last word written to CMD (R40). -/
  cmd : Word
  /-- BUSY: a command is executing; always 0 between accesses in the atomic model (R457). -/
  busy : Bool
  /-- The model's own: the host's accesses still to be made, in order (R32, R88, R462). -/
  pending : List HostAction
  /-- The model's own: what the host's reads returned, oldest first (R462). -/
  observed : List Observation
  /-- The model's own: how many free values have been drawn. No claim rests on its value. -/
  draws : Nat
deriving DecidableEq, Repr

/-- The machine right after reset: every piece of state 0 but RK, which holds the draw `RK_RESET`
(R33, R450, R451); no host access pending, none observed (log entry 1), one value drawn (log entry 2). -/
def State.reset : State where
  key := Vector.replicate 16 0
  din := Vector.replicate 16 0
  dout := Vector.replicate 16 0
  st := Vector.replicate 4 (Vector.replicate 4 0)
  rk := Config.rkReset 0
  ksValid := false
  errKind := 0
  errVal := 0
  errOp := 0
  result := 0
  cmd := 0
  busy := false
  pending := []
  observed := []
  draws := 1

/-- What a step or a command answers. -/
abbrev Answer := Host.Outcome State Fault Refusal

end Sys2Proof.Machine
end

