-- ==== Sys2Proof/Machine/Ops.lean ====
section
/-!
DEFINITION. Sys2Proof/Machine/Ops.lean: reading and building blocks, matrices and schedules by index
(R15, R16); how a command ends, by a raise or by success (R406, R407); the reset step (R450, R451).
The block has no trap: a raise is the whole of taking an error, and there is no return from it (R410).
-/
namespace Sys2Proof

/-! ### Indexed data (R15, R16) -/

/-- `block[i]`. -/
def Block.byte (b : Block) (i : Fin 16) : Byte := b[i]

/-- The block whose byte `i` is `f i`. -/
def Block.ofBytes (f : Fin 16 → Byte) : Block := Vector.ofFn f

/-- Row `r` of a column. -/
def Column.byte (col : Column) (r : Fin 4) : Byte := col[r]

/-- The column whose row `r` is `f r`. -/
def Column.ofBytes (f : Fin 4 → Byte) : Column := Vector.ofFn f

/-- `S[r][c]`. -/
def StateMatrix.byte (m : StateMatrix) (r c : Fin 4) : Byte := m[r][c]

/-- The state matrix whose row `r`, column `c` is `f r c`. -/
def StateMatrix.ofBytes (f : Fin 4 → Fin 4 → Byte) : StateMatrix :=
  Vector.ofFn fun r => Vector.ofFn fun c => f r c

/-- `RK[r][c]`. -/
def Schedule.byte (k : Schedule) (r : Fin 4) (c : Fin 44) : Byte := k[r][c]

/-- The schedule whose row `r`, column `c` is `f r c`. -/
def Schedule.ofBytes (f : Fin 4 → Fin 44 → Byte) : Schedule :=
  Vector.ofFn fun r => Vector.ofFn fun c => f r c

namespace Machine

/-! ### How a command ends -/

/-- ERR.KIND's code of an error kind (R400). -/
def ErrorKind.code : ErrorKind → BitVec 4
  | .invalidKeyLength => 1
  | .invalidBlockLength => 2
  | .illegalCommand => 3
  | .noKeySchedule => 4
  | .invalidRoundIndex => 5

/-- `raise E(val)` during a command whose OP field is `op`: ERR is written, nothing else (R18, R406). -/
def raise (kind : ErrorKind) (val : Nat) (op : Byte) (s : State) : State :=
  { s with errKind := kind.code, errVal := BitVec.ofNat 5 val, errOp := op }

/-- What a command that completes without a raise writes after its own effects (R407). -/
def succeed (s : State) : State :=
  { s with errKind := 0, errVal := 0, errOp := 0 }

/-- A command that completes with the state `s` after its own effects (R407). -/
def complete (s : State) : Answer := .next (succeed s)

/-- A command that ends by a raise: architected behaviour, a next state (R406, R417). -/
def fail (kind : ErrorKind) (val : Nat) (op : Byte) (s : State) : Answer :=
  .next (raise kind val op s)

/-! ### Reset -/

/-- Reset, one step between two host accesses: the whole record of R33 is set, RK to a fresh draw
(R450, R451, R454). What the host has still to do and what it has observed are the host's, not the
block's, and stay. -/
def coreReset (s : State) : State :=
  { State.reset with
    rk := Config.rkReset s.draws
    draws := s.draws + 1
    pending := s.pending
    observed := s.observed }

end Machine
end Sys2Proof
end

