-- ==== Sys2Proof/Machine/Operands.lean ====
section
/-!
DEFINITION. Sys2Proof/Machine/Operands.lean: byte lanes of a register word (R82), and the checks of a
command's operands in the order of R408, each ending the command by a raise when it fails.
-/
namespace Sys2Proof.Machine

/-! ### Byte lanes: little-endian, fixed (R82) -/

/-- Byte 3 ‖ byte 2 ‖ byte 1 ‖ byte 0, byte `j` at bits [8j+7:8j]. -/
def joinBytes (b3 b2 b1 b0 : Byte) : Word := b3 ++ b2 ++ b1 ++ b0

/-- `pack(bytes, i)` (R82). -/
def pack (b : Block) (i : Fin 4) : Word :=
  joinBytes (b.byte ⟨4 * i + 3, by omega⟩) (b.byte ⟨4 * i + 2, by omega⟩)
    (b.byte ⟨4 * i + 1, by omega⟩) (b.byte ⟨4 * i, by omega⟩)

/-- `unpack(w)[j] = w[8j+7:8j]` (R82). -/
def unpack (w : Word) (j : Fin 4) : Byte := w.extractLsb' (8 * j) 8

/-- The group after a write of `v` to its register `i`: bytes 4i..4i+3 are replaced (R44, R85). -/
def writeLanes (b : Block) (i : Fin 4) (v : Word) : Block :=
  .ofBytes fun n =>
    if n.val / 4 = i.val then unpack v ⟨n.val % 4, by omega⟩ else b.byte n

/-! ### Operand checks (R401, R402, R404, R405, R408) -/

/-- EXPAND_KEY's length check: LEN > 16 raises INVALID_KEY_LENGTH(LEN) (R247, R401). -/
def requireKeyLength (len : Nat) (op : Byte) (s : State) (body : Answer) : Answer :=
  if 16 < len then fail .invalidKeyLength len op s else body

/-- A block command's length check: LEN ≠ 16 raises INVALID_BLOCK_LENGTH(LEN) (R402). -/
def requireBlockLength (len : Nat) (op : Byte) (s : State) (body : Answer) : Answer :=
  if len ≠ 16 then fail .invalidBlockLength len op s else body

/-- ADD_ROUND_KEY's index check: IDX > 10 raises INVALID_ROUND_INDEX(IDX) (R276, R405). The body gets
the round index with its bound. -/
def requireRoundIndex (k : Nat) (op : Byte) (s : State) (body : Fin 11 → Answer) : Answer :=
  if h : k < 11 then body ⟨k, h⟩ else fail .invalidRoundIndex k op s

/-- The check of a keyed command: KS_VALID = 0 raises NO_KEY_SCHEDULE(0) (R404). -/
def requireKeySchedule (op : Byte) (s : State) (body : Answer) : Answer :=
  if s.ksValid then body else fail .noKeySchedule 0 op s

end Sys2Proof.Machine
end

