-- ==== Sys2Proof/Machine/GaloisField.lean ====
section
/-!
DEFINITION. Sys2Proof/Machine/GaloisField.lean: the GF(2^8) arithmetic (R200 to R209) and the six
GF_MUL commands (R210 to R215), spec file 40.
-/
namespace Sys2Proof.Machine

/-! ### The constant multipliers -/

/-- b·{02}: shift, and reduce by 0x11B when bit 7 was set (R201). The byte's width masks the result. -/
def mul02 (b : Byte) : Byte := if b < 0x80 then b <<< 1 else (b <<< 1) ^^^ 0x1B

/-- b·{03} (R202). -/
def mul03 (b : Byte) : Byte := mul02 b ^^^ b

/-- b·{09} (R203). -/
def mul09 (b : Byte) : Byte := mul02 (mul02 (mul02 b)) ^^^ b

/-- b·{0b} (R204). -/
def mul0b (b : Byte) : Byte := mul02 (mul02 (mul02 b)) ^^^ mul02 b ^^^ b

/-- b·{0d} (R205). -/
def mul0d (b : Byte) : Byte := mul02 (mul02 (mul02 b)) ^^^ mul02 (mul02 b) ^^^ b

/-- b·{0e} (R206). -/
def mul0e (b : Byte) : Byte := mul02 (mul02 (mul02 b)) ^^^ mul02 (mul02 b) ^^^ mul02 b

/-- mul02^i (R207). -/
def mul02Pow : Nat → Byte → Byte
  | 0, a => a
  | i + 1, a => mul02 (mul02Pow i a)

/-- The sum of the mul02^i(a) over the i < n with c[i] = 1. -/
def gmulBelow (a c : Byte) : Nat → Byte
  | 0 => 0
  | n + 1 => gmulBelow a c n ^^^ (if c.getLsbD n then mul02Pow n a else 0)

/-- The general product, used to state the matrices (R207). No command computes it. -/
def gmul (a c : Byte) : Byte := gmulBelow a c 8

/-- The inverse of mul02 (R208). -/
def mul02Inv (y : Byte) : Byte :=
  if y.getLsbD 0 then ((y ^^^ 0x1B) >>> 1) ||| 0x80 else y >>> 1

/-! ### The commands -/

/-- What the byte commands share: RESULT gets the byte, ERR is cleared (R43, R407). -/
def byteResult (v : Byte) (s : State) : Answer := complete { s with result := v }

/-- GF_MUL02 (R210). -/
def execGfMul02 (arg : Byte) (s : State) : Answer := byteResult (mul02 arg) s

/-- GF_MUL03 (R211). -/
def execGfMul03 (arg : Byte) (s : State) : Answer := byteResult (mul03 arg) s

/-- GF_MUL09 (R212). -/
def execGfMul09 (arg : Byte) (s : State) : Answer := byteResult (mul09 arg) s

/-- GF_MUL0B (R213). -/
def execGfMul0b (arg : Byte) (s : State) : Answer := byteResult (mul0b arg) s

/-- GF_MUL0D (R214). -/
def execGfMul0d (arg : Byte) (s : State) : Answer := byteResult (mul0d arg) s

/-- GF_MUL0E (R215). -/
def execGfMul0e (arg : Byte) (s : State) : Answer := byteResult (mul0e arg) s

end Sys2Proof.Machine
end

