-- ==== Sys2Proof/Machine/KeySchedule.lean ====
section
/-!
DEFINITION. Sys2Proof/Machine/KeySchedule.lean: key padding, the round key schedule (R240 to R246,
R248, R250) and the EXPAND_KEY command (R247), spec file 42.
-/
namespace Sys2Proof.Machine

/-- PadKey(K, L): the key bytes below L, then 0x01 (R241). -/
def padKey (key : Block) (len : Nat) : Block :=
  .ofBytes fun i => if i.val < len then key.byte i else 0x01

/-- Column c of the padded key, c = 0..3: row r is P[r + 4c] (R242). -/
def paddedColumn (p : Block) (c : Fin 4) : Column :=
  .ofBytes fun r => p.byte ⟨r + 4 * c, by omega⟩

/-- The term XORed with the column 4 back to give column `c`: the previous column itself, or, when
c mod 4 = 0, that column rotated up by one row, substituted, and XORed with RCON column c/4 - 1
(R243, R244). -/
def scheduleTerm (c : Nat) (prev : Column) : Column :=
  .ofBytes fun r =>
    if c % 4 = 0 then sbox (prev.byte (r + 1)) ^^^ rcon r (c / 4 - 1) else prev.byte r

/-- Column `c` from column c - 4 and column c - 1 (R243, R244). -/
def nextColumn (c : Nat) (back4 prev : Column) : Column :=
  .ofBytes fun r => back4.byte r ^^^ (scheduleTerm c prev).byte r

/-- Columns c, c+1, c+2, c+3 of the schedule of the padded key `p`, generated left to right (R245). -/
def columnWindow (p : Block) : Nat → Column × Column × Column × Column
  | 0 => (paddedColumn p 0, paddedColumn p 1, paddedColumn p 2, paddedColumn p 3)
  | c + 1 =>
    let w := columnWindow p c
    (w.2.1, w.2.2.1, w.2.2.2, nextColumn (c + 4) w.1 w.2.2.2)

/-- Column `c` of the schedule of the padded key `p`. -/
def scheduleColumn (p : Block) (c : Nat) : Column := (columnWindow p c).1

/-- KeyExpansion(K, L) (R246). -/
def keyExpansion (key : Block) (len : Nat) : Schedule :=
  .ofBytes fun r c => (scheduleColumn (padKey key len) c).byte r

/-- RoundKey(k), the 16 bytes of columns 4k..4k+3 (R248). -/
def roundKey (rk : Schedule) (k : Fin 11) : Block :=
  .ofBytes fun i => rk.byte ⟨i % 4, by omega⟩ ⟨4 * k + i / 4, by omega⟩

/-- EXPAND_KEY (R247). -/
def execExpandKey (len : Nat) (s : State) : Answer :=
  requireKeyLength len opExpandKey s <|
    complete { s with rk := keyExpansion s.key len, ksValid := true }

end Sys2Proof.Machine
end

