-- ==== Sys2Proof/Machine/RoundTransforms.lean ====
section
/-!
DEFINITION. Sys2Proof/Machine/RoundTransforms.lean: the round transforms and their inverses (R260 to
R266) and the seven step-mode commands (R270 to R276), spec file 43.
-/
namespace Sys2Proof.Machine

/-! ### The transforms -/

/-- SubBytes (R260). -/
def subBytes (m : StateMatrix) : StateMatrix := .ofBytes fun r c => sbox (m.byte r c)

/-- InvSubBytes (R261). -/
def invSubBytes (m : StateMatrix) : StateMatrix := .ofBytes fun r c => invSbox (m.byte r c)

/-- ShiftRows: row r rotated left by r; the index arithmetic of `Fin 4` is mod 4 (R262). -/
def shiftRows (m : StateMatrix) : StateMatrix := .ofBytes fun r c => m.byte r (c + r)

/-- InvShiftRows: row r rotated right by r (R263). -/
def invShiftRows (m : StateMatrix) : StateMatrix := .ofBytes fun r c => m.byte r (c - r)

/-- One column times the matrix of R264. -/
def mixColumn (a0 a1 a2 a3 : Byte) : Column :=
  #v[ mul02 a0 ^^^ mul03 a1 ^^^ a2 ^^^ a3,
      a0 ^^^ mul02 a1 ^^^ mul03 a2 ^^^ a3,
      a0 ^^^ a1 ^^^ mul02 a2 ^^^ mul03 a3,
      mul03 a0 ^^^ a1 ^^^ a2 ^^^ mul02 a3 ]

/-- One column times the matrix of R265. -/
def invMixColumn (a0 a1 a2 a3 : Byte) : Column :=
  #v[ mul0e a0 ^^^ mul0b a1 ^^^ mul0d a2 ^^^ mul09 a3,
      mul09 a0 ^^^ mul0e a1 ^^^ mul0b a2 ^^^ mul0d a3,
      mul0d a0 ^^^ mul09 a1 ^^^ mul0e a2 ^^^ mul0b a3,
      mul0b a0 ^^^ mul0d a1 ^^^ mul09 a2 ^^^ mul0e a3 ]

/-- MixColumns (R264). -/
def mixColumns (m : StateMatrix) : StateMatrix :=
  .ofBytes fun r c => (mixColumn (m.byte 0 c) (m.byte 1 c) (m.byte 2 c) (m.byte 3 c)).byte r

/-- InvMixColumns (R265). -/
def invMixColumns (m : StateMatrix) : StateMatrix :=
  .ofBytes fun r c => (invMixColumn (m.byte 0 c) (m.byte 1 c) (m.byte 2 c) (m.byte 3 c)).byte r

/-- AddRoundKey(S, k), k = 0..10 (R266). -/
def addRoundKey (m : StateMatrix) (rk : Schedule) (k : Fin 11) : StateMatrix :=
  .ofBytes fun r c => m.byte r c ^^^ rk.byte r ⟨4 * k + c, by omega⟩

/-! ### The step-mode commands -/

/-- What the step-mode transforms share: STATE is replaced, ERR is cleared (spec file 43 section 3, R407). -/
def replaceState (m : StateMatrix) (s : State) : Answer := complete { s with st := m }

/-- SUB_BYTES (R270). -/
def execSubBytes (s : State) : Answer := replaceState (subBytes s.st) s

/-- INV_SUB_BYTES (R271). -/
def execInvSubBytes (s : State) : Answer := replaceState (invSubBytes s.st) s

/-- SHIFT_ROWS (R272). -/
def execShiftRows (s : State) : Answer := replaceState (shiftRows s.st) s

/-- INV_SHIFT_ROWS (R273). -/
def execInvShiftRows (s : State) : Answer := replaceState (invShiftRows s.st) s

/-- MIX_COLUMNS (R274). -/
def execMixColumns (s : State) : Answer := replaceState (mixColumns s.st) s

/-- INV_MIX_COLUMNS (R275). -/
def execInvMixColumns (s : State) : Answer := replaceState (invMixColumns s.st) s

/-- ADD_ROUND_KEY: the index check comes before the schedule check (R276, R408). -/
def execAddRoundKey (k : Nat) (s : State) : Answer :=
  requireRoundIndex k opAddRoundKey s fun round =>
    requireKeySchedule opAddRoundKey s <|
      replaceState (addRoundKey s.st s.rk round) s

end Sys2Proof.Machine
end

