-- ==== Sys2Proof/Machine/BlockCipher.lean ====
section
/-!
DEFINITION. Sys2Proof/Machine/BlockCipher.lean: load and unload (R290, R291), the two ciphers (R292,
R293) and the commands NOP, LOAD_STATE, STORE_STATE, ENCRYPT and DECRYPT (R295 to R299), spec file 44.
-/
namespace Sys2Proof.Machine

/-! ### Load, unload and the two ciphers -/

/-- Load: S[r][c] = block[r + 4c] (R290). -/
def load (b : Block) : StateMatrix := .ofBytes fun r c => b.byte ⟨r + 4 * c, by omega⟩

/-- Unload: block[r + 4c] = S[r][c] (R291). -/
def unload (m : StateMatrix) : Block :=
  .ofBytes fun i => m.byte ⟨i % 4, by omega⟩ ⟨i / 4, by omega⟩

/-- Round k = 1..9 of Cipher: SubBytes, ShiftRows, MixColumns, AddRoundKey(k) (R292). -/
def cipherRound (rk : Schedule) (m : StateMatrix) (k : Fin 11) : StateMatrix :=
  addRoundKey (mixColumns (shiftRows (subBytes m))) rk k

/-- Cipher(S, RK): ten rounds, MixColumns omitted in the last (R292). -/
def cipher (m : StateMatrix) (rk : Schedule) : StateMatrix :=
  let m := ([1, 2, 3, 4, 5, 6, 7, 8, 9] : List (Fin 11)).foldl (cipherRound rk) (addRoundKey m rk 0)
  addRoundKey (shiftRows (subBytes m)) rk 10

/-- Round k = 9..1 of InvCipher: InvShiftRows, InvSubBytes, AddRoundKey(k), InvMixColumns (R293). -/
def invCipherRound (rk : Schedule) (m : StateMatrix) (k : Fin 11) : StateMatrix :=
  invMixColumns (addRoundKey (invSubBytes (invShiftRows m)) rk k)

/-- InvCipher(S, RK) (R293). -/
def invCipher (m : StateMatrix) (rk : Schedule) : StateMatrix :=
  let m :=
    ([9, 8, 7, 6, 5, 4, 3, 2, 1] : List (Fin 11)).foldl (invCipherRound rk) (addRoundKey m rk 10)
  addRoundKey (invSubBytes (invShiftRows m)) rk 0

/-! ### The commands -/

/-- NOP: no state change but the clearing of ERR (R295, R407). -/
def execNop (s : State) : Answer := complete s

/-- LOAD_STATE (R296). -/
def execLoadState (len : Nat) (s : State) : Answer :=
  requireBlockLength len opLoadState s <| complete { s with st := load s.din }

/-- STORE_STATE (R297). -/
def execStoreState (s : State) : Answer := complete { s with dout := unload s.st }

/-- What ENCRYPT and DECRYPT share: STATE gets the final state, DOUT its bytes (R298, R299, D18). -/
def finishBlock (m : StateMatrix) (s : State) : Answer :=
  complete { s with st := m, dout := unload m }

/-- ENCRYPT: the length check comes before the schedule check (R298, R408). -/
def execEncrypt (len : Nat) (s : State) : Answer :=
  requireBlockLength len opEncrypt s <|
    requireKeySchedule opEncrypt s <|
      finishBlock (cipher (load s.din) s.rk) s

/-- DECRYPT: as ENCRYPT, with the inverse cipher (R299, R408). -/
def execDecrypt (len : Nat) (s : State) : Answer :=
  requireBlockLength len opDecrypt s <|
    requireKeySchedule opDecrypt s <|
      finishBlock (invCipher (load s.din) s.rk) s

end Sys2Proof.Machine
end

