-- ==== Sys2Proof/Machine/Dispatch.lean ====
section
/-!
DEFINITION. Sys2Proof/Machine/Dispatch.lean: one arm per command of R124, each calling its meaning
(R125: exec performs the selected row's rule).
-/
namespace Sys2Proof.Machine

/-- The effect of a decoded command on the state in which CMD already holds its word (R30, R125). -/
def exec (i : Instr) (s : State) : Host.Outcome State Fault Refusal :=
  match i with
  | .nop => Sys2Proof.Machine.execNop s
  | .expandKey len => Sys2Proof.Machine.execExpandKey len s
  | .encrypt len => Sys2Proof.Machine.execEncrypt len s
  | .decrypt len => Sys2Proof.Machine.execDecrypt len s
  | .loadState len => Sys2Proof.Machine.execLoadState len s
  | .storeState => Sys2Proof.Machine.execStoreState s
  | .subBytes => Sys2Proof.Machine.execSubBytes s
  | .invSubBytes => Sys2Proof.Machine.execInvSubBytes s
  | .shiftRows => Sys2Proof.Machine.execShiftRows s
  | .invShiftRows => Sys2Proof.Machine.execInvShiftRows s
  | .mixColumns => Sys2Proof.Machine.execMixColumns s
  | .invMixColumns => Sys2Proof.Machine.execInvMixColumns s
  | .addRoundKey k => Sys2Proof.Machine.execAddRoundKey k s
  | .gfMul02 arg => Sys2Proof.Machine.execGfMul02 arg s
  | .gfMul03 arg => Sys2Proof.Machine.execGfMul03 arg s
  | .gfMul09 arg => Sys2Proof.Machine.execGfMul09 arg s
  | .gfMul0b arg => Sys2Proof.Machine.execGfMul0b arg s
  | .gfMul0d arg => Sys2Proof.Machine.execGfMul0d arg s
  | .gfMul0e arg => Sys2Proof.Machine.execGfMul0e arg s
  | .sbox arg => Sys2Proof.Machine.execSbox arg s
  | .invSbox arg => Sys2Proof.Machine.execInvSbox arg s

end Sys2Proof.Machine
end

