-- ==== Sys2Proof/Machine/Flags.lean ====
section
/-!
DEFINITION. Sys2Proof/Machine/Flags.lean: the words of STATUS, ERR and RESULT, computed from the state
(R41, R42, R43, R50). The block has no other flags.
-/
namespace Sys2Proof.Machine

/-- STATUS.ERRF: 1 when ERR_KIND ≠ 0 (R41). -/
def errFlag (s : State) : Bool := s.errKind != 0

/-- STATUS: [0] KS_VALID, [1] ERRF, [2] BUSY, the rest 0 (R41, R84). -/
def statusWord (s : State) : Word :=
  0#29 ++ BitVec.ofBool s.busy ++ BitVec.ofBool (errFlag s) ++ BitVec.ofBool s.ksValid

/-- ERR: [3:0] KIND, [12:8] VAL, [23:16] OP, the rest 0 (R42, R84). -/
def errWord (s : State) : Word := 0#8 ++ s.errOp ++ 0#3 ++ s.errVal ++ 0#4 ++ s.errKind

/-- RESULT: [7:0] RESULT, the rest 0 (R43). -/
def resultWord (s : State) : Word := 0#24 ++ s.result

end Sys2Proof.Machine
end

