-- ==== Sys2Proof/Machine/RegisterMap.lean ====
section
/-!
DEFINITION. Sys2Proof/Machine/RegisterMap.lean: the register map of R39, the value each register reads
as (R40 to R48, R84), and where the window lies in the platform (R12, R80).
-/
namespace Sys2Proof.Machine

/-- The registers of R39. -/
inductive Reg where
  | cmd
  | status
  | err
  | result
  | key (i : Fin 4)
  | din (i : Fin 4)
  | dout (i : Fin 4)
  | st (c : Fin 4)
  | rk (c : Fin 44)
deriving DecidableEq, Repr

/-- The offset of a register (R39). -/
def Reg.offset : Reg → Offset
  | .cmd => 0x000
  | .status => 0x004
  | .err => 0x008
  | .result => 0x00C
  | .key i => BitVec.ofNat 12 (0x010 + 4 * i)
  | .din i => BitVec.ofNat 12 (0x020 + 4 * i)
  | .dout i => BitVec.ofNat 12 (0x030 + 4 * i)
  | .st c => BitVec.ofNat 12 (0x040 + 4 * c)
  | .rk c => BitVec.ofNat 12 (0x100 + 4 * c)

/-- Whether the host may write the register (R39). -/
def Reg.writable : Reg → Bool
  | .cmd => true
  | .key _ => true
  | .din _ => true
  | .status => false
  | .err => false
  | .result => false
  | .dout _ => false
  | .st _ => false
  | .rk _ => false

/-- The register at an offset; none where R39 lists none. A misaligned offset is no register's (R39). -/
def regAt (off : Offset) : Option Reg :=
  if off.toNat % 4 ≠ 0 then none
  else if off.toNat = 0x000 then some .cmd
  else if off.toNat = 0x004 then some .status
  else if off.toNat = 0x008 then some .err
  else if off.toNat = 0x00C then some .result
  else if h : 0x010 ≤ off.toNat ∧ off.toNat ≤ 0x01C then some (.key ⟨(off.toNat - 0x010) / 4, by omega⟩)
  else if h : 0x020 ≤ off.toNat ∧ off.toNat ≤ 0x02C then some (.din ⟨(off.toNat - 0x020) / 4, by omega⟩)
  else if h : 0x030 ≤ off.toNat ∧ off.toNat ≤ 0x03C then some (.dout ⟨(off.toNat - 0x030) / 4, by omega⟩)
  else if h : 0x040 ≤ off.toNat ∧ off.toNat ≤ 0x04C then some (.st ⟨(off.toNat - 0x040) / 4, by omega⟩)
  else if h : 0x100 ≤ off.toNat ∧ off.toNat ≤ 0x1AC then some (.rk ⟨(off.toNat - 0x100) / 4, by omega⟩)
  else none

/-- Column `c` of STATE as a word, row r in lane r (R47). -/
def stateColumnWord (m : StateMatrix) (c : Fin 4) : Word :=
  joinBytes (m.byte 3 c) (m.byte 2 c) (m.byte 1 c) (m.byte 0 c)

/-- Column `c` of RK as a word, row r in lane r (R48). -/
def scheduleColumnWord (k : Schedule) (c : Fin 44) : Word :=
  joinBytes (k.byte 3 c) (k.byte 2 c) (k.byte 1 c) (k.byte 0 c)

/-- Whether reading the register draws a free value: the RK window while KS_VALID = 0 (R48, D41). -/
def Reg.readDraws (reg : Reg) (s : State) : Bool :=
  match reg with
  | .rk _ => !s.ksValid
  | _ => false

/-- The word a register reads as (R40 to R48, R84). -/
def readReg (reg : Reg) (s : State) : Word :=
  match reg with
  | .cmd => s.cmd
  | .status => statusWord s
  | .err => errWord s
  | .result => resultWord s
  | .key i => pack s.key i
  | .din i => pack s.din i
  | .dout i => pack s.dout i
  | .st c => stateColumnWord s.st c
  | .rk c => if s.ksValid then scheduleColumnWord s.rk c else Config.rkWindowDraw s.draws

/-! ### The window in the platform's address space (R80) -/

/-- The platform byte address of an offset (R12, R80). -/
def windowAddress (off : Offset) : Nat := Config.aesBase + off.toNat

/-- The offset a platform byte address falls on, if it lies in the window (R80). -/
def windowOffset (addr : Nat) : Option Offset :=
  if Config.aesBase ≤ addr ∧ addr < Config.aesBase + 0x1000 then
    some (BitVec.ofNat 12 (addr - Config.aesBase))
  else none

end Sys2Proof.Machine
end

