-- ==== Sys2Proof/Machine/Bus.lean ====
section
/-!
DEFINITION. Sys2Proof/Machine/Bus.lean: running a command word (R125), the host's reads and writes (R81,
R84, R85), and one host action (R30, R88, R130, R450).
-/
namespace Sys2Proof.Machine

/-- A write of `w` to CMD: `CMD <- w`, then the command `w` encodes, or ILLEGAL_COMMAND (R40, R125). -/
def runCommand (w : Word) (s : State) : Answer :=
  match decode w with
  | .ok i => exec i { s with cmd := w }
  | .error _ => fail .illegalCommand 0 (opField w) { s with cmd := w }

/-- MemRead(off, 4): the word at an offset, 0 where no register is (R49, R84). -/
def memRead (off : Offset) (s : State) : Word :=
  match regAt off with
  | some reg => readReg reg s
  | none => 0

/-- MemWrite(off, 4, v): KEY, DIN and CMD take the write; every other offset ignores it (R49, R85). -/
def memWrite (off : Offset) (v : Word) (s : State) : Answer :=
  match regAt off with
  | some (.key i) => .next { s with key := writeLanes s.key i v }
  | some (.din i) => .next { s with din := writeLanes s.din i v }
  | some .cmd => runCommand v s
  | some .status => .next s
  | some .err => .next s
  | some .result => .next s
  | some (.dout _) => .next s
  | some (.st _) => .next s
  | some (.rk _) => .next s
  | none => .next s

/-! ### Host accesses -/

/-- Why an access is outside the contract, if it is: not 32 bits wide or misaligned (R81), or made while
BUSY = 1 and no STATUS read (R458). -/
def accessRefusal (off : Offset) (size : Nat) (isRead : Bool) (s : State) : Option Refusal :=
  if size ≠ 4 then some .accessWidth
  else if off.toNat % 4 ≠ 0 then some .misaligned
  else if s.busy && !(isRead && off == Reg.offset .status) then some .accessWhileBusy
  else none

/-- The draws taken once a read of `off` has been made (R48, log entry 3). -/
def drawsAfterRead (off : Offset) (s : State) : Nat :=
  match regAt off with
  | some reg => if reg.readDraws s then s.draws + 1 else s.draws
  | none => s.draws

/-- A host read: the word is kept for the observation, with the claim made of it, and no state of the
block changes (R84, R129, R462). -/
def observe (off : Offset) (claim : Option Word) (s : State) : State :=
  { s with
    observed := s.observed ++ [⟨off, memRead off s, claim⟩]
    draws := drawsAfterRead off s }

/-- `wait` reads STATUS, and is made again while the bit it reads is 1 (R130, R456, R457). -/
def waitOnce (s : State) : State :=
  let t := observe (Reg.offset .status) none s
  if (statusWord s).getLsbD 2 then { t with pending := .wait :: t.pending } else t

/-- One host action, taken off the pending list before (R30, R88, R450). -/
def perform (a : HostAction) (s : State) : Answer :=
  match a with
  | .read off size claim =>
    match accessRefusal off size true s with
    | some r => .refused r
    | none => .next (observe off claim s)
  | .write off size v =>
    match accessRefusal off size false s with
    | some r => .refused r
    | none => memWrite off v s
  | .wait => .next (waitOnce s)
  | .reset => .next (coreReset s)

end Sys2Proof.Machine
end

