-- ==== Sys2Proof/Machine/Step.lean ====
section
/-!
DEFINITION. Sys2Proof/Machine/Step.lean: one step of the machine, and placing a command where the step
takes its next one. The block fetches nothing: a command arrives as a host write to CMD (R32).
-/
namespace Sys2Proof.Machine

/-- One step: the host's next access takes effect, whole (R30, R86, R88). With no access pending the
block is idle and keeps all state (R416, R453). -/
def step (s : State) : Host.Outcome State Fault Refusal :=
  match s.pending with
  | [] => .next s
  | a :: rest => perform a { s with pending := rest }

/-- `s` with the next host access a write of the table's word to CMD, and BUSY clear so that the write is
made (R32, R458; log entry 1). -/
def State.withFetchWord (s : State) (nbits w : Nat) : State :=
  { s with
    pending := .write (Reg.offset .cmd) 4 (tableWord nbits w) :: s.pending
    busy := false }

end Sys2Proof.Machine
end

