-- ==== Sys2Proof/Machine/HostProgram.lean ====
section
/-!
DEFINITION. Sys2Proof/Machine/HostProgram.lean: the host's lines and pseudo-instructions (R129, R130) as
the accesses they stand for, and the end and observation of a run (R462). The text of a line is notation
(D39); a line is given here as its parsed form.
-/
namespace Sys2Proof.Machine

/-! ### Defaults (R129) -/

/-- `encrypt` with `len=` left out. -/
def encryptDefault : Instr := .encrypt 16

/-- `decrypt` with `len=` left out. -/
def decryptDefault : Instr := .decrypt 16

/-- `load_state` with `len=` left out. -/
def loadStateDefault : Instr := .loadState 16

/-! ### Lines -/

/-- A line of a host program (R129, R130). -/
inductive Line where
  /-- `wr OFF, V`. -/
  | wr (off : Offset) (v : Word)
  /-- `rd OFF`. -/
  | rd (off : Offset)
  /-- `rd OFF == V`. -/
  | rdEq (off : Offset) (v : Word)
  /-- A command mnemonic on a line by itself. -/
  | command (i : Instr)
  /-- `setkey b[0..L-1]`. -/
  | setkey (b : List Byte)
  /-- `setdin b[0..15]`. -/
  | setdin (b : Block)
  /-- `getdout`. -/
  | getdout
  /-- `wait`. -/
  | wait
  /-- `check`. -/
  | check
  /-- `encrypt_block b[0..15]`. -/
  | encryptBlock (b : Block)
  /-- `decrypt_block b[0..15]`. -/
  | decryptBlock (b : Block)
deriving DecidableEq, Repr

/-- `setkey` takes at most 16 bytes (R130), a command must be expressible (R129). -/
def Line.wellFormed : Line → Bool
  | .command i => i.wellFormed
  | .setkey b => decide (b.length ≤ 16)
  | .wr _ _ => true
  | .rd _ => true
  | .rdEq _ _ => true
  | .setdin _ => true
  | .getdout => true
  | .wait => true
  | .check => true
  | .encryptBlock _ => true
  | .decryptBlock _ => true

/-- `wr REG, v`. -/
def wrReg (reg : Reg) (v : Word) : HostAction := .write reg.offset 4 v

/-- `rd REG`. -/
def rdReg (reg : Reg) : HostAction := .read reg.offset 4 none

/-- `wr CMD, <the command's word>`. -/
def wrCommand (i : Instr) : HostAction := wrReg .cmd (encode i)

/-- A list of at most 16 bytes followed by zero bytes up to 16 (R130, `setkey`). -/
def zeroFilled (b : List Byte) : Block := .ofBytes fun i => b.getD i 0

/-- `wr KEYi, pack(b, i)` for i = 0..3. -/
def writeKey (b : Block) : List HostAction := [0, 1, 2, 3].map fun i => wrReg (.key i) (pack b i)

/-- `wr DINi, pack(b, i)` for i = 0..3. -/
def writeDin (b : Block) : List HostAction := [0, 1, 2, 3].map fun i => wrReg (.din i) (pack b i)

/-- `rd DOUT0` .. `rd DOUT3`. -/
def readDout : List HostAction := [0, 1, 2, 3].map fun i => rdReg (.dout i)

/-- The accesses a line stands for (R129, R130). -/
def Line.expand : Line → List HostAction
  | .wr off v => [.write off 4 v]
  | .rd off => [.read off 4 none]
  | .rdEq off v => [.read off 4 (some v)]
  | .command i => [wrCommand i]
  | .setkey b => writeKey (zeroFilled b) ++ [wrCommand (.expandKey b.length)]
  | .setdin b => writeDin b
  | .getdout => readDout
  | .wait => [.wait]
  | .check => [.read (Reg.offset .err) 4 (some 0)]
  | .encryptBlock b => writeDin b ++ [wrCommand encryptDefault, .wait] ++ readDout
  | .decryptBlock b => writeDin b ++ [wrCommand decryptDefault, .wait] ++ readDout

/-- The accesses of a host program, in order (R129). -/
def expandLines (ls : List Line) : List HostAction := ls.flatMap Line.expand

/-- `s` with a host program after the accesses already pending (R462). -/
def State.withLines (s : State) (ls : List Line) : State :=
  { s with pending := s.pending ++ expandLines ls }

/-! ### The ciphers as step-mode commands (R292, R293, R415) -/

/-- Cipher one command at a time: LOAD_STATE, AddRoundKey(0), rounds 1..9, round 10, STORE_STATE. -/
def encryptSteps : List Instr :=
  [.loadState 16, .addRoundKey 0]
    ++ [1, 2, 3, 4, 5, 6, 7, 8, 9].flatMap
      (fun k => [.subBytes, .shiftRows, .mixColumns, .addRoundKey k])
    ++ [.subBytes, .shiftRows, .addRoundKey 10, .storeState]

/-- InvCipher one command at a time: LOAD_STATE, AddRoundKey(10), rounds 9..1, the last round,
STORE_STATE. -/
def decryptSteps : List Instr :=
  [.loadState 16, .addRoundKey 10]
    ++ [9, 8, 7, 6, 5, 4, 3, 2, 1].flatMap
      (fun k => [.invShiftRows, .invSubBytes, .addRoundKey k, .invMixColumns])
    ++ [.invShiftRows, .invSubBytes, .addRoundKey 0, .storeState]

/-- Commands executed one after another, stopping at the first that does not answer a next state. -/
def execAll : List Instr → State → Answer
  | [], s => .next s
  | i :: rest, s =>
    match exec i s with
    | .next t => execAll rest t
    | .fault f => .fault f
    | .refused r => .refused r

/-! ### The end and the observation of a run (R462) -/

/-- The run has ended: its last access has completed. -/
def State.runEnded (s : State) : Bool := s.pending.isEmpty && !s.busy

/-- Whether the claim made of a read, if any, held (R129). -/
def Observation.claimHeld (o : Observation) : Bool :=
  match o.claim with
  | some v => o.value == v
  | none => true

/-- Every claim made of a read so far held. -/
def State.claimsHeld (s : State) : Bool := s.observed.all Observation.claimHeld

/-- The values the host's reads returned, in order. -/
def State.values (s : State) : List Word := s.observed.map Observation.value

end Sys2Proof.Machine
end

