-- ==== Sys2Proof/Machine/Framing.lean ====
section
/-!
DEFINITION. Sys2Proof/Machine/Framing.lean: block framing at testbench level, as host functions and as the
host's accesses (R320 to R328), spec file 45. The block has no framing state and no framing command.
-/
namespace Sys2Proof.Machine

/-- A framing function's error: its kind and the offending length, which no register bounds (R323, R324). -/
structure StreamError where
  kind : ErrorKind
  val : Nat
deriving DecidableEq, Repr

/-! ### Chunks, padding and strip -/

/-- The chunk count, ceil(n / 16) (R321). -/
def chunkCount (n : Nat) : Nat := (n + 15) / 16

/-- Chunk j: `s[16j .. min(16j+16, n) - 1]` (R321). -/
def chunk (s : List Byte) (j : Nat) : List Byte := (s.drop (16 * j)).take 16

/-- PadFinal, for a chunk of 1 to 16 bytes (R322). -/
def padFinal (ch : List Byte) : List Byte :=
  if ch.length = 16 then ch else ch ++ List.replicate (16 - ch.length - 1) 0x00 ++ [0x01]

/-- The block of a 16-byte list. -/
def blockOf (l : List Byte) : Block := .ofBytes fun i => l.getD i 0

/-- The bytes of a block, `block[0..15]`. -/
def blockBytes (b : Block) : List Byte := b.toList

/-- The framed block j: the final chunk is padded, every other one is passed through (R323). -/
def framedBlock (s : List Byte) (j : Nat) : Block :=
  blockOf (if j + 1 = chunkCount s.length then padFinal (chunk s j) else chunk s j)

/-- A trailing byte that Strip removes (R325). -/
def stripped (b : Byte) : Bool := b == 0x00 || b == 0x01

/-- Strip: trailing bytes equal to 0x00 or 0x01 are removed, from the end (R325). -/
def strip (b : List Byte) : List Byte := (b.reverse.dropWhile stripped).reverse

/-! ### The framing functions -/

/-- One block through the cipher (R323). -/
def encryptBytes (rk : Schedule) (b : Block) : List Byte := blockBytes (unload (cipher (load b) rk))

/-- One block through the inverse cipher (R324). -/
def decryptBytes (rk : Schedule) (b : Block) : List Byte := blockBytes (unload (invCipher (load b) rk))

/-- The schedule of a stream's key (R323, R324). -/
def streamSchedule (key : List Byte) : Schedule := keyExpansion (blockOf key) key.length

/-- encrypt_stream (R323). -/
def encryptStream (s key : List Byte) : Except StreamError (List Byte) :=
  if 16 < key.length then .error ⟨.invalidKeyLength, key.length⟩
  else .ok ((List.range (chunkCount s.length)).flatMap fun j =>
    encryptBytes (streamSchedule key) (framedBlock s j))

/-- decrypt_stream (R324). -/
def decryptStream (s key : List Byte) : Except StreamError (List Byte) :=
  if 16 < key.length then .error ⟨.invalidKeyLength, key.length⟩
  else if s.length % 16 ≠ 0 then .error ⟨.invalidBlockLength, s.length % 16⟩
  else .ok (strip ((List.range (s.length / 16)).flatMap fun j =>
    decryptBytes (streamSchedule key) (blockOf (chunk s j))))

/-! ### Framing on the block (R328) -/

/-- encrypt_stream as the host's lines; a key longer than 16 bytes is refused before any command. -/
def encryptStreamLines (s key : List Byte) : Except StreamError (List Line) :=
  if 16 < key.length then .error ⟨.invalidKeyLength, key.length⟩
  else .ok ([.setkey key, .check] ++
    (List.range (chunkCount s.length)).map fun j => .encryptBlock (framedBlock s j))

/-- decrypt_stream as the host's lines, to be followed by Strip on the host. -/
def decryptStreamLines (s key : List Byte) : Except StreamError (List Line) :=
  if 16 < key.length then .error ⟨.invalidKeyLength, key.length⟩
  else if s.length % 16 ≠ 0 then .error ⟨.invalidBlockLength, s.length % 16⟩
  else .ok ([.setkey key, .check] ++
    (List.range (s.length / 16)).map fun j => .decryptBlock (blockOf (chunk s j)))

/-- The four bytes of a word, in lane order (R82). -/
def wordBytes (w : Word) : List Byte := [unpack w 0, unpack w 1, unpack w 2, unpack w 3]

/-- Whether an observation is of one of DOUT0..DOUT3. -/
def Observation.ofDout (o : Observation) : Bool :=
  match regAt o.off with
  | some (.dout _) => true
  | _ => false

/-- The output the host assembles: the DOUT words it read, unpacked and appended (R328). -/
def State.doutBytes (s : State) : List Byte :=
  (s.observed.filter Observation.ofDout).flatMap fun o => wordBytes o.value

end Sys2Proof.Machine
end

