-- ==== Sys2Proof/Safety.lean ====
section
/-!
DEFINITION. Sys2Proof/Safety.lean: what claims about the machine are stated in: the invariant of every
state a run reaches (R37, R400, R406, R457, U11), the states a run reaches, what a command leaves in
ERR (R406, R407), the fields of a word as numbers (R122, R126), and the field GF(2^8) as polynomials (R200).
-/
namespace Sys2Proof.Machine

/-! ### The invariant -/

/-- ERR holds what R400's table lets a command write: a code 0..5, and the VAL of its kind. -/
def State.errLegal (s : State) : Prop :=
  (s.errKind = 0 ∧ s.errVal = 0 ∧ s.errOp = 0)
  ∨ (s.errKind = 1 ∧ 17 ≤ s.errVal.toNat)
  ∨ (s.errKind = 2 ∧ s.errVal.toNat ≠ 16)
  ∨ (s.errKind = 3 ∧ s.errVal = 0)
  ∨ (s.errKind = 4 ∧ s.errVal = 0)
  ∨ (s.errKind = 5 ∧ 11 ≤ s.errVal.toNat ∧ s.errVal.toNat ≤ 15)

/-- A recorded error names the OP field of the last word written to CMD (R40, R406, R407). -/
def State.errNamesCmd (s : State) : Prop := s.errKind ≠ 0 → s.errOp = opField s.cmd

/-- While KS_VALID = 1, RK is the expansion of some key contents and length (R37). -/
def State.scheduleExpanded (s : State) : Prop :=
  s.ksValid = true → ∃ (key : Block) (len : Nat), len ≤ 16 ∧ s.rk = keyExpansion key len

/-- The invariant of the machine: BUSY reads 0 at every host access (R457), ERR is legal and names the
last command, RK is an expansion while KS_VALID = 1. -/
structure Inv (s : State) : Prop where
  idle : s.busy = false
  errLegal : s.errLegal
  errNamesCmd : s.errNamesCmd
  scheduleExpanded : s.scheduleExpanded

/-! ### Runs -/

/-- The states a run reaches: from reset, with any accesses the host makes (R462). -/
inductive Reachable : State → Prop
  | start (acts : List HostAction) : Reachable { State.reset with pending := acts }
  | next {s t : State} (h : Reachable s) (hs : step s = .next t) : Reachable t

/-- An access the contract allows: 32 bits wide at a multiple of 4 (R81). -/
def HostAction.inContract : HostAction → Bool
  | .read off size _ => size == 4 && off.toNat % 4 == 0
  | .write off size _ => size == 4 && off.toNat % 4 == 0
  | .wait => true
  | .reset => true

/-- The last command raised no error: ERR.KIND = 0 (R417). -/
def State.noError (s : State) : Prop := s.errKind = 0

/-! ### What a command leaves in ERR (R406, R407) -/

/-- `t` is `s` but for ERR_KIND, ERR_VAL and ERR_OP (R406). -/
def State.sameButErr (s t : State) : Prop :=
  t = { s with errKind := t.errKind, errVal := t.errVal, errOp := t.errOp }

/-- ERR reads 0 (R407). -/
def State.errClear (s : State) : Prop := s.errKind = 0 ∧ s.errVal = 0 ∧ s.errOp = 0

end Sys2Proof.Machine

namespace Sys2Proof

/-! ### Fields of a word as numbers (R121, R122), for statements that do not rest on the decoder's own -/

/-- OP, as a number. -/
def opNumber (w : Word) : Nat := w.toNat % 2 ^ 8

/-- ARG, as a number. -/
def argNumber (w : Word) : Nat := w.toNat / 2 ^ 8 % 2 ^ 8

/-- LEN, as a number. -/
def lenNumber (w : Word) : Nat := w.toNat / 2 ^ 16 % 2 ^ 5

/-- IDX, as a number. -/
def idxNumber (w : Word) : Nat := w.toNat / 2 ^ 24 % 2 ^ 4

/-- The words R126 lists: an undefined OP, an undefined GF constant, a nonzero reserved bit, or a
nonzero field that the command does not read. -/
def selectsNoCommand (w : Word) : Prop :=
  let op := opNumber w
  (0x04 ≤ op ∧ op ≤ 0x0F) ∨ (0x19 ≤ op ∧ op ≤ 0x1F) ∨ 0x23 ≤ op
  ∨ (op = 0x20 ∧ idxNumber w ∉ [0x2, 0x3, 0x9, 0xB, 0xD, 0xE])
  ∨ w.toNat / 2 ^ 21 % 2 ^ 3 ≠ 0 ∨ w.toNat / 2 ^ 28 ≠ 0
  ∨ (argNumber w ≠ 0 ∧ op < 0x20)
  ∨ (lenNumber w ≠ 0 ∧ op ∉ [0x01, 0x02, 0x03, 0x10])
  ∨ (idxNumber w ≠ 0 ∧ op ∉ [0x18, 0x20])

/-! ### The field GF(2^8) as polynomials over GF(2) (R200) -/

/-- The polynomial a byte stands for: bit i is the coefficient of x^i (R200). -/
noncomputable def bytePoly (b : Byte) : Polynomial (ZMod 2) :=
  ∑ i : Fin 8, if b.getLsbD i then Polynomial.X ^ i.val else 0

/-- x^8 + x^4 + x^3 + x + 1, 0x11B (R200). -/
noncomputable def fieldModulus : Polynomial (ZMod 2) :=
  Polynomial.X ^ 8 + Polynomial.X ^ 4 + Polynomial.X ^ 3 + Polynomial.X + 1

/-- `p` is the product of `a` and `c` in GF(2^8): the polynomials agree modulo the modulus (R200). -/
def isFieldProduct (p a c : Byte) : Prop :=
  fieldModulus ∣ bytePoly p - bytePoly a * bytePoly c

end Sys2Proof
end

