-- ==== Sys2Proof/Certificates/Slice0/Obligations.lean ====
section
/-!
DEFINITION. Sys2Proof/Certificates/Slice0/Obligations.lean: the statements for the provers. Every
statement about a command names the whole next state: what is written, and `{ s with … }` for the rest.
-/
open Sys2Proof Sys2Proof.Machine

/-! ### Encoding (spec file 30) -/

/-- A few words written out bit by bit from R124's pattern strings decode to their commands. -/
def Obligations.WrittenOutWordsDecode : Prop :=
  (decode 0b00000000000000000000000000000000#32).toOption = some .nop
  ∧ (decode 0b00000000000100000000000000000001#32).toOption = some (.expandKey 16)
  ∧ (decode 0b00000000000000000000000000010110#32).toOption = some .mixColumns
  ∧ (decode 0b00001010000000000000000000011000#32).toOption = some (.addRoundKey 10)
  ∧ (decode 0b00001101000000000101011100100000#32).toOption = some (.gfMul0d 0x57)
  ∧ (decode 0b00000000000000001110110100100010#32).toOption = some (.invSbox 0xED)
  ∧ (decode 0b00000000000000000000000100000000#32).toOption = none

/-- R124 and R125: a word that matches a row selects that row's command, with its operand fields. -/
def Obligations.MatchingWordsSelectTheirRow : Prop :=
  ∀ w : Word,
    (w &&& 0xFFFFFFFF = 0x00000000 → decode w = .ok .nop)
    ∧ (w &&& 0xFFE0FFFF = 0x00000001 → decode w = .ok (.expandKey (lenNumber w)))
    ∧ (w &&& 0xFFE0FFFF = 0x00000002 → decode w = .ok (.encrypt (lenNumber w)))
    ∧ (w &&& 0xFFE0FFFF = 0x00000003 → decode w = .ok (.decrypt (lenNumber w)))
    ∧ (w &&& 0xFFE0FFFF = 0x00000010 → decode w = .ok (.loadState (lenNumber w)))
    ∧ (w &&& 0xFFFFFFFF = 0x00000011 → decode w = .ok .storeState)
    ∧ (w &&& 0xFFFFFFFF = 0x00000012 → decode w = .ok .subBytes)
    ∧ (w &&& 0xFFFFFFFF = 0x00000013 → decode w = .ok .invSubBytes)
    ∧ (w &&& 0xFFFFFFFF = 0x00000014 → decode w = .ok .shiftRows)
    ∧ (w &&& 0xFFFFFFFF = 0x00000015 → decode w = .ok .invShiftRows)
    ∧ (w &&& 0xFFFFFFFF = 0x00000016 → decode w = .ok .mixColumns)
    ∧ (w &&& 0xFFFFFFFF = 0x00000017 → decode w = .ok .invMixColumns)
    ∧ (w &&& 0xF0FFFFFF = 0x00000018 → decode w = .ok (.addRoundKey (idxNumber w)))
    ∧ (w &&& 0xFFFF00FF = 0x02000020 → decode w = .ok (.gfMul02 (BitVec.ofNat 8 (argNumber w))))
    ∧ (w &&& 0xFFFF00FF = 0x03000020 → decode w = .ok (.gfMul03 (BitVec.ofNat 8 (argNumber w))))
    ∧ (w &&& 0xFFFF00FF = 0x09000020 → decode w = .ok (.gfMul09 (BitVec.ofNat 8 (argNumber w))))
    ∧ (w &&& 0xFFFF00FF = 0x0B000020 → decode w = .ok (.gfMul0b (BitVec.ofNat 8 (argNumber w))))
    ∧ (w &&& 0xFFFF00FF = 0x0D000020 → decode w = .ok (.gfMul0d (BitVec.ofNat 8 (argNumber w))))
    ∧ (w &&& 0xFFFF00FF = 0x0E000020 → decode w = .ok (.gfMul0e (BitVec.ofNat 8 (argNumber w))))
    ∧ (w &&& 0xFFFF00FF = 0x00000021 → decode w = .ok (.sbox (BitVec.ofNat 8 (argNumber w))))
    ∧ (w &&& 0xFFFF00FF = 0x00000022 → decode w = .ok (.invSbox (BitVec.ofNat 8 (argNumber w))))

/-- R126 and R403: a word that R126 lists, written to CMD, raises ILLEGAL_COMMAND with VAL 0 and OP w[7:0], and
changes nothing but ERR and CMD; every other word decodes to a command. -/
def Obligations.UndefinedWordsRaiseIllegalCommand : Prop :=
  ∀ w : Word,
    (selectsNoCommand w → ∀ (s : State) (rest : List HostAction),
      s.pending = .write 0x000 4 w :: rest → s.busy = false →
        step s = .next
          { s with
            pending := rest, cmd := w, errKind := 3, errVal := 0, errOp := BitVec.ofNat 8 (opNumber w) })
    ∧ (¬ selectsNoCommand w → ∃ i : Instr, decode w = .ok i)

/-- Decoding the word of a command gives the command back, with every operand at every value. -/
def Obligations.DecodeOfEncodeIsTheCommand : Prop :=
  ∀ i : Instr, i.wellFormed = true → decode (encode i) = .ok i

/-- A word that decodes is the word of the command it decodes to: no bit of it is dropped. -/
def Obligations.EncodeOfDecodeIsTheWord : Prop :=
  ∀ (w : Word) (i : Instr), decode w = .ok i → i.wellFormed = true ∧ encode i = w

/-- R125: two rows of the opcode map never match the same word. -/
def Obligations.NoTwoRowsMatchOneWord : Prop :=
  ∀ (w : Word) (row row' : OpcodeRow), row ∈ opcodeRows → row' ∈ opcodeRows →
    row.selects w = true → row'.selects w = true → row.mnemonic = row'.mnemonic

/-! ### Steps and host accesses (spec files 10, 20, 70) -/

/-- The host's next access is a write of `w` to CMD and the core is idle: when `w` decodes to `i`, the
step stores `w` in CMD and then is exec of `i`. -/
def Obligations.StepRunsTheCommandWrittenToCmd : Prop :=
  ∀ (s : State) (rest : List HostAction) (w : Word) (i : Instr),
    s.pending = .write 0x000 4 w :: rest → s.busy = false → decode w = .ok i →
      step s = exec i { s with pending := rest, cmd := w }

/-- R416: with no access pending, a step keeps all state (that the step goes on at all is the model's
choice, log entry 1). -/
def Obligations.IdleBlockKeepsAllState : Prop :=
  ∀ s : State, s.pending = [] → step s = .next s

/-- R33 and R450: the reset values, and what the registers of R39 (but for RK) read as after reset. -/
def Obligations.ResetLeavesTheResetValues : Prop :=
  (∀ i, State.reset.key.byte i = 0) ∧ (∀ i, State.reset.din.byte i = 0)
  ∧ (∀ i, State.reset.dout.byte i = 0) ∧ (∀ r c, State.reset.st.byte r c = 0)
  ∧ State.reset.ksValid = false ∧ State.reset.errKind = 0 ∧ State.reset.errVal = 0
  ∧ State.reset.errOp = 0 ∧ State.reset.result = 0 ∧ State.reset.cmd = 0 ∧ State.reset.busy = false
  ∧ ∀ off : Offset, off.toNat < 0x100 ∨ 0x1B0 ≤ off.toNat → memRead off State.reset = 0

/-- R450 and R454: a reset step, from any state, a busy one too, sets every piece of state but RK to its
reset value; the host's accesses and observations stay (the model's choice, log entry 8). -/
def Obligations.ResetStepSetsTheWholeRecord : Prop :=
  ∀ (s : State) (rest : List HostAction), s.pending = .reset :: rest →
    ∃ t, step s = .next t
      ∧ t = { State.reset with
                rk := t.rk, draws := t.draws, pending := rest, observed := s.observed }

/-- R84: a host read returns the register at its offset, byte by byte and field by field, 0 at an offset
R39 does not list, and changes no state of the block. What it returns from the RK window while
KS_VALID = 0 is left open. -/
def Obligations.HostReadReturnsTheRegister : Prop :=
  ∀ (s : State) (rest : List HostAction) (off : Offset) (claim : Option Word),
    s.pending = .read off 4 claim :: rest → s.busy = false → off.toNat % 4 = 0 →
    ∃ t v, step s = .next t
      ∧ t = { s with pending := rest, observed := s.observed ++ [⟨off, v, claim⟩], draws := t.draws }
      ∧ (∀ i j : Fin 4, off.toNat = 0x010 + 4 * i →
          v.toNat / 2 ^ (8 * j.val) % 2 ^ 8 = (s.key.byte ⟨4 * i + j, by omega⟩).toNat)
      ∧ (∀ i j : Fin 4, off.toNat = 0x020 + 4 * i →
          v.toNat / 2 ^ (8 * j.val) % 2 ^ 8 = (s.din.byte ⟨4 * i + j, by omega⟩).toNat)
      ∧ (∀ i j : Fin 4, off.toNat = 0x030 + 4 * i →
          v.toNat / 2 ^ (8 * j.val) % 2 ^ 8 = (s.dout.byte ⟨4 * i + j, by omega⟩).toNat)
      ∧ (∀ c r : Fin 4, off.toNat = 0x040 + 4 * c →
          v.toNat / 2 ^ (8 * r.val) % 2 ^ 8 = (s.st.byte r c).toNat)
      ∧ (∀ (c : Fin 44) (r : Fin 4), off.toNat = 0x100 + 4 * c → s.ksValid = true →
          v.toNat / 2 ^ (8 * r.val) % 2 ^ 8 = (s.rk.byte r c).toNat)
      ∧ (off.toNat = 0x000 → v = s.cmd)
      ∧ (off.toNat = 0x004 →
          v.toNat = (if s.ksValid then 1 else 0) + (if s.errKind = 0 then 0 else 2))
      ∧ (off.toNat = 0x008 →
          v.toNat = s.errKind.toNat + 2 ^ 8 * s.errVal.toNat + 2 ^ 16 * s.errOp.toNat)
      ∧ (off.toNat = 0x00C → v.toNat = s.result.toNat)
      ∧ ((0x050 ≤ off.toNat ∧ off.toNat < 0x100) ∨ 0x1B0 ≤ off.toNat → v = 0)

/-- R85: a host write to KEYi or DINi replaces its four bytes, lane by lane, and has no effect beyond them; a
write to CMD stores the word and then executes it; a write to any other offset has no effect. -/
def Obligations.HostWriteHasItsRegistersEffect : Prop :=
  ∀ (s : State) (rest : List HostAction) (off : Offset) (v : Word),
    s.pending = .write off 4 v :: rest → s.busy = false → off.toNat % 4 = 0 →
    (∀ i : Fin 4, off.toNat = 0x010 + 4 * i → ∃ t, step s = .next t
      ∧ t = { s with pending := rest, key := t.key }
      ∧ ∀ n : Fin 16, t.key.byte n =
          if n.val / 4 = i.val then BitVec.ofNat 8 (v.toNat / 2 ^ (8 * (n.val % 4))) else s.key.byte n)
    ∧ (∀ i : Fin 4, off.toNat = 0x020 + 4 * i → ∃ t, step s = .next t
      ∧ t = { s with pending := rest, din := t.din }
      ∧ ∀ n : Fin 16, t.din.byte n =
          if n.val / 4 = i.val then BitVec.ofNat 8 (v.toNat / 2 ^ (8 * (n.val % 4))) else s.din.byte n)
    ∧ (off.toNat = 0x000 →
        (∀ i : Instr, decode v = .ok i → step s = exec i { s with pending := rest, cmd := v })
        ∧ ∀ r : DecodeReject, decode v = .error r → step s = .next
            { s with
              pending := rest, cmd := v, errKind := 3, errVal := 0, errOp := BitVec.ofNat 8 (opNumber v) })
    ∧ ((0x004 ≤ off.toNat ∧ off.toNat < 0x010) ∨ 0x030 ≤ off.toNat →
        step s = .next { s with pending := rest })

/-- R49: a write to a read-only or unmapped offset is ignored, and a read of an unmapped offset returns 0. -/
def Obligations.ReadOnlyAndUnmappedOffsetsIgnoreWrites : Prop :=
  ∀ (s : State) (off : Offset), off.toNat % 4 = 0 →
    (∀ (rest : List HostAction) (v : Word), s.pending = .write off 4 v :: rest → s.busy = false →
      (0x004 ≤ off.toNat ∧ off.toNat < 0x010) ∨ 0x030 ≤ off.toNat →
        step s = .next { s with pending := rest })
    ∧ ((0x050 ≤ off.toNat ∧ off.toNat < 0x100) ∨ 0x1B0 ≤ off.toNat → memRead off s = 0)

/-- A narrower, wider or misaligned access is refused, whatever the state: the first clause, which is R81's. The
names are the model's choice (log entry 5): an access that breaks only one of R81's two conditions is named by it,
in a busy state too, where it may break R458 as well. -/
def Obligations.AccessesOutsideTheContractAreRefused : Prop :=
  ∀ (s : State) (rest : List HostAction) (off : Offset) (size : Nat) (v : Word) (claim : Option Word),
    s.pending = .read off size claim :: rest ∨ s.pending = .write off size v :: rest →
    (size ≠ 4 ∨ off.toNat % 4 ≠ 0 → ∃ r, step s = .refused r)
    ∧ (size ≠ 4 → off.toNat % 4 = 0 → step s = .refused .accessWidth)
    ∧ (size = 4 → off.toNat % 4 ≠ 0 → step s = .refused .misaligned)

/-- R458: while BUSY = 1 every access but a STATUS read is refused; a STATUS read is answered, with bit 2 of the
word 1. No state a run reaches has BUSY = 1. -/
def Obligations.BusyBlockAnswersOnlyStatusReads : Prop :=
  (∀ (s : State) (rest : List HostAction) (off : Offset) (v : Word) (claim : Option Word),
    s.busy = true → off.toNat % 4 = 0 →
    (s.pending = .write off 4 v :: rest → step s = .refused .accessWhileBusy)
    ∧ (s.pending = .read off 4 claim :: rest → off.toNat ≠ 0x004 → step s = .refused .accessWhileBusy)
    ∧ (s.pending = .read off 4 claim :: rest → off.toNat = 0x004 → ∃ t word, step s = .next t
        ∧ t = { s with pending := rest, observed := s.observed ++ [⟨off, word, claim⟩] }
        ∧ word.getLsbD 2 = true))
  ∧ ∀ s : State, Reachable s → s.busy = false

/-- R457: in a state that is not busy, `wait` ends after one read of STATUS. -/
def Obligations.WaitEndsAfterOneRead : Prop :=
  ∀ (s : State) (rest : List HostAction), s.pending = .wait :: rest → s.busy = false →
    ∃ t word, step s = .next t
      ∧ t = { s with pending := rest, observed := s.observed ++ [⟨0x004, word, none⟩] }
      ∧ word.getLsbD 2 = false

/-- R44, R45 and R82: KEYi and DINi read back the word last written to them. -/
def Obligations.KeyAndDinReadBackTheWordWritten : Prop :=
  ∀ (s t : State) (rest : List HostAction) (off : Offset) (v : Word),
    s.pending = .write off 4 v :: rest → s.busy = false → off.toNat % 4 = 0 →
    0x010 ≤ off.toNat → off.toNat < 0x030 → step s = .next t → memRead off t = v

/-- R39: the register map: which register lies at each offset, which offsets hold none, and which registers the
host may write. -/
def Obligations.RegistersLieAtTheirOffsets : Prop :=
  regAt 0x000 = some .cmd ∧ regAt 0x004 = some .status ∧ regAt 0x008 = some .err
  ∧ regAt 0x00C = some .result
  ∧ (∀ i : Fin 4, regAt (BitVec.ofNat 12 (0x010 + 4 * i)) = some (.key i)
      ∧ regAt (BitVec.ofNat 12 (0x020 + 4 * i)) = some (.din i)
      ∧ regAt (BitVec.ofNat 12 (0x030 + 4 * i)) = some (.dout i)
      ∧ regAt (BitVec.ofNat 12 (0x040 + 4 * i)) = some (.st i))
  ∧ (∀ c : Fin 44, regAt (BitVec.ofNat 12 (0x100 + 4 * c)) = some (.rk c))
  ∧ (∀ off : Offset, regAt off = none ↔
      off.toNat % 4 ≠ 0 ∨ (0x050 ≤ off.toNat ∧ off.toNat < 0x100) ∨ 0x1B0 ≤ off.toNat)
  ∧ ∀ reg : Reg, reg.writable = true ↔
      reg = .cmd ∨ (∃ i, reg = .key i) ∨ ∃ i, reg = .din i

/-- R412: every host access the contract allows, and every command, is answered by a next state. -/
def Obligations.EveryAllowedAccessIsAnswered : Prop :=
  ∀ (s : State) (a : HostAction) (rest : List HostAction), s.pending = a :: rest → s.busy = false →
    a.inContract = true → ∃ t, step s = .next t

/-! ### Errors and whole-machine rules (spec files 10, 60) -/

/-- R409, R406 and R407: a command answers a next state that either reads ERR = 0, or is the old state but
for ERR; no command writes KEY, DIN, CMD or BUSY. -/
def Obligations.CommandsCompleteOrChangeOnlyErr : Prop :=
  ∀ (i : Instr) (s : State), ∃ t, exec i s = .next t
    ∧ (t.errClear ∨ (t.errKind ≠ 0 ∧ s.sameButErr t))
    ∧ t = { s with
              dout := t.dout, st := t.st, rk := t.rk, ksValid := t.ksValid, result := t.result,
              errKind := t.errKind, errVal := t.errVal, errOp := t.errOp }

/-- R408: a command reports the first error that applies: ILLEGAL_COMMAND at decode, then the operand check, then
NO_KEY_SCHEDULE. -/
def Obligations.ErrorsAreReportedInOrder : Prop :=
  ∀ s : State,
    (∀ (w : Word) (r : DecodeReject), decode w = .error r → runCommand w s = .next
      { s with cmd := w, errKind := 3, errVal := 0, errOp := BitVec.ofNat 8 (opNumber w) })
    ∧ (∀ n : Nat, 16 < n → n < 32 →
      exec (.expandKey n) s = .next { s with errKind := 1, errVal := BitVec.ofNat 5 n, errOp := 0x01 })
    ∧ (∀ n : Nat, n < 32 → n ≠ 16 →
      exec (.encrypt n) s = .next { s with errKind := 2, errVal := BitVec.ofNat 5 n, errOp := 0x02 }
      ∧ exec (.decrypt n) s = .next { s with errKind := 2, errVal := BitVec.ofNat 5 n, errOp := 0x03 }
      ∧ exec (.loadState n) s = .next { s with errKind := 2, errVal := BitVec.ofNat 5 n, errOp := 0x10 })
    ∧ (∀ n : Nat, 10 < n → n < 16 →
      exec (.addRoundKey n) s = .next { s with errKind := 5, errVal := BitVec.ofNat 5 n, errOp := 0x18 })
    ∧ (s.ksValid = false →
      exec (.encrypt 16) s = .next { s with errKind := 4, errVal := 0, errOp := 0x02 }
      ∧ exec (.decrypt 16) s = .next { s with errKind := 4, errVal := 0, errOp := 0x03 }
      ∧ ∀ n : Nat, n ≤ 10 →
        exec (.addRoundKey n) s = .next { s with errKind := 4, errVal := 0, errOp := 0x18 })

/-- R36 and R38: a step that is no reset never clears KS_VALID, and writes RK or KS_VALID only by a write to
CMD of an EXPAND_KEY with LEN ≤ 16. -/
def Obligations.OnlyExpandKeyWritesTheSchedule : Prop :=
  ∀ s t : State, step s = .next t → s.pending.head? ≠ some .reset →
    (s.ksValid = true → t.ksValid = true)
    ∧ (t.rk ≠ s.rk ∨ t.ksValid ≠ s.ksValid →
        ∃ rest w len, s.pending = .write 0x000 4 w :: rest ∧ decode w = .ok (.expandKey len) ∧ len ≤ 16)

/-- The invariant (BUSY 0, ERR legal and naming the last command, RK an expansion while KS_VALID = 1) is
kept by every step, from every state that meets it. -/
def Obligations.StepKeepsTheInvariant : Prop :=
  ∀ s t : State, Inv s → step s = .next t → Inv t

/-- The invariant holds after reset. -/
def Obligations.ResetMeetsTheInvariant : Prop := Inv State.reset

/-- In every state a run reaches, whatever the host does, BUSY is 0, ERR.KIND is at most 5, and a step is
refused only for an access that breaks the contract of R81. -/
def Obligations.RunsStopOnlyAtContractBreaches : Prop :=
  ∀ s : State, Reachable s →
    s.busy = false ∧ s.errKind.toNat ≤ 5
    ∧ ∀ r : Refusal, step s = .refused r →
        ∃ a rest, s.pending = a :: rest ∧ a.inContract = false

/-! ### Commands: spec files 42 to 44 -/

/-- R295: NOP changes nothing but ERR, which it clears. -/
def Obligations.NopOnlyClearsErr : Prop :=
  ∀ s : State, exec .nop s = .next { s with errKind := 0, errVal := 0, errOp := 0 }

/-- R241 to R244 and R247: EXPAND_KEY with LEN ≤ 16 completes, sets KS_VALID, leaves in columns 0..3 of RK the
key padded with 0x01, and in columns 4..43 the recurrence of the schedule; nothing else changes but ERR. With
LEN 17..31 it raises INVALID_KEY_LENGTH(LEN) and changes only ERR. -/
def Obligations.ExpandKeyWritesThePaddedSchedule : Prop :=
  (∀ (len : Nat) (s : State), 16 < len → len < 32 →
    exec (.expandKey len) s = .next { s with errKind := 1, errVal := BitVec.ofNat 5 len, errOp := 0x01 })
  ∧ ∀ (len : Nat) (s : State), len ≤ 16 →
    ∃ t, exec (.expandKey len) s = .next t
      ∧ t = { s with rk := t.rk, ksValid := true, errKind := 0, errVal := 0, errOp := 0 }
      ∧ (∀ r c : Fin 4, t.rk.byte r ⟨c, by omega⟩ =
          if r.val + 4 * c.val < len then s.key.byte ⟨r + 4 * c, by omega⟩ else 0x01)
      ∧ ∀ (c : Nat) (hc : c < 40) (r : Fin 4),
          t.rk.byte r ⟨c + 4, by omega⟩ = t.rk.byte r ⟨c, by omega⟩ ^^^
            (if c % 4 = 0 then
              sbox (t.rk.byte (r + 1) ⟨c + 3, by omega⟩) ^^^
                (if r = 0 then
                  [0x01, 0x02, 0x04, 0x08, 0x10, 0x20, 0x40, 0x80, 0x1B, 0x36].getD (c / 4) 0
                else 0x00)
            else t.rk.byte r ⟨c + 3, by omega⟩)

/-- R240: EXPAND_KEY never reads KEY bytes at index ≥ LEN: from two states that agree on the bytes below
LEN it leaves the same schedule. -/
def Obligations.KeyBytesBeyondLenAreNotRead : Prop :=
  ∀ (len : Nat) (s s' : State), len ≤ 16 → (∀ i : Fin 16, i.val < len → s.key.byte i = s'.key.byte i) →
    ∃ t t', exec (.expandKey len) s = .next t ∧ exec (.expandKey len) s' = .next t' ∧ t.rk = t'.rk

/-- R251: a key of length L < 16 and that key with 0x01 appended give the same padded key and the same schedule; any
two keys whose padded keys are equal give the same schedule. -/
def Obligations.PaddedKeysDecideTheSchedule : Prop :=
  (∀ (key : Block) (len : Nat) (h : len < 16), key.byte ⟨len, h⟩ = 0x01 →
    padKey key len = padKey key (len + 1) ∧ keyExpansion key len = keyExpansion key (len + 1))
  ∧ ∀ (key key' : Block) (len len' : Nat),
    (∀ i : Fin 16, (if i.val < len then key.byte i else 0x01) = (if i.val < len' then key'.byte i else 0x01)) →
      keyExpansion key len = keyExpansion key' len'

/-- R290, R291, R296 and R297: LOAD_STATE copies DIN to STATE and STORE_STATE copies STATE to DOUT, both
column-major, and each changes nothing else but ERR; LOAD_STATE with LEN ≠ 16 raises INVALID_BLOCK_LENGTH(LEN);
Unload undoes Load. -/
def Obligations.LoadAndStoreMoveTheBlockColumnMajor : Prop :=
  ∀ s : State,
    (∀ len : Nat, len < 32 → len ≠ 16 →
      exec (.loadState len) s = .next { s with errKind := 2, errVal := BitVec.ofNat 5 len, errOp := 0x10 })
    ∧ (∃ t, exec (.loadState 16) s = .next t
      ∧ t = { s with st := t.st, errKind := 0, errVal := 0, errOp := 0 }
      ∧ ∀ r c : Fin 4, t.st.byte r c = s.din.byte ⟨r + 4 * c, by omega⟩)
    ∧ (∃ t, exec .storeState s = .next t
      ∧ t = { s with dout := t.dout, errKind := 0, errVal := 0, errOp := 0 }
      ∧ ∀ r c : Fin 4, t.dout.byte ⟨r + 4 * c, by omega⟩ = s.st.byte r c)
    ∧ ∀ b : Block, unload (load b) = b

/-- R260, R261, R270 and R271: SUB_BYTES and INV_SUB_BYTES replace every byte of STATE by its table image. -/
def Obligations.SubBytesCommandsLookUpEveryByte : Prop :=
  ∀ s : State,
    (∃ t, exec .subBytes s = .next t
      ∧ t = { s with st := t.st, errKind := 0, errVal := 0, errOp := 0 }
      ∧ ∀ r c : Fin 4, t.st.byte r c = sbox (s.st.byte r c))
    ∧ ∃ t, exec .invSubBytes s = .next t
      ∧ t = { s with st := t.st, errKind := 0, errVal := 0, errOp := 0 }
      ∧ ∀ r c : Fin 4, t.st.byte r c = invSbox (s.st.byte r c)

/-- R262, R263, R272 and R273: SHIFT_ROWS rotates row r left by r, INV_SHIFT_ROWS right by r. -/
def Obligations.ShiftRowsCommandsRotateRows : Prop :=
  ∀ s : State,
    (∃ t, exec .shiftRows s = .next t
      ∧ t = { s with st := t.st, errKind := 0, errVal := 0, errOp := 0 }
      ∧ ∀ r c : Fin 4, t.st.byte r c = s.st.byte r ⟨(c.val + r.val) % 4, by omega⟩)
    ∧ ∃ t, exec .invShiftRows s = .next t
      ∧ t = { s with st := t.st, errKind := 0, errVal := 0, errOp := 0 }
      ∧ ∀ r c : Fin 4, t.st.byte r ⟨(c.val + r.val) % 4, by omega⟩ = s.st.byte r c

/-- R264, R265, R274 and R275: MIX_COLUMNS and INV_MIX_COLUMNS multiply every column by the circulant matrix
with first row 02 03 01 01, and 0e 0b 0d 09, with the products of R207. -/
def Obligations.MixColumnsCommandsMultiplyByTheMatrix : Prop :=
  ∀ s : State,
    (∃ t, exec .mixColumns s = .next t
      ∧ t = { s with st := t.st, errKind := 0, errVal := 0, errOp := 0 }
      ∧ ∀ r c : Fin 4, t.st.byte r c =
          gmul (s.st.byte r c) 0x02 ^^^ gmul (s.st.byte (r + 1) c) 0x03
            ^^^ gmul (s.st.byte (r + 2) c) 0x01 ^^^ gmul (s.st.byte (r + 3) c) 0x01)
    ∧ ∃ t, exec .invMixColumns s = .next t
      ∧ t = { s with st := t.st, errKind := 0, errVal := 0, errOp := 0 }
      ∧ ∀ r c : Fin 4, t.st.byte r c =
          gmul (s.st.byte r c) 0x0e ^^^ gmul (s.st.byte (r + 1) c) 0x0b
            ^^^ gmul (s.st.byte (r + 2) c) 0x0d ^^^ gmul (s.st.byte (r + 3) c) 0x09

/-- R266 and R276: with KS_VALID = 1 and k ≤ 10, ADD_ROUND_KEY XORs columns 4k..4k+3 of RK into STATE; with
k = 11..15 it raises INVALID_ROUND_INDEX(k), and with k ≤ 10 and KS_VALID = 0 NO_KEY_SCHEDULE. -/
def Obligations.AddRoundKeyXorsTheRoundKey : Prop :=
  (∀ (k : Nat) (s : State), 10 < k → k < 16 →
    exec (.addRoundKey k) s = .next { s with errKind := 5, errVal := BitVec.ofNat 5 k, errOp := 0x18 })
  ∧ (∀ (k : Nat) (s : State), k ≤ 10 → s.ksValid = false →
    exec (.addRoundKey k) s = .next { s with errKind := 4, errVal := 0, errOp := 0x18 })
  ∧ ∀ (k : Nat) (hk : k ≤ 10) (s : State), s.ksValid = true →
    ∃ t, exec (.addRoundKey k) s = .next t
      ∧ t = { s with st := t.st, errKind := 0, errVal := 0, errOp := 0 }
      ∧ ∀ r c : Fin 4, t.st.byte r c = s.st.byte r c ^^^ s.rk.byte r ⟨4 * k + c, by omega⟩

/-- R292 and R298: with KS_VALID = 1, ENCRYPT leaves in STATE the last of the eleven states of the cipher on
DIN, and the same bytes in DOUT, column-major; nothing else changes but ERR. With LEN ≠ 16 it raises
INVALID_BLOCK_LENGTH(LEN), and with LEN = 16 and KS_VALID = 0 NO_KEY_SCHEDULE; then only ERR changes. -/
def Obligations.EncryptLeavesTheCipherOfDin : Prop :=
  (∀ (len : Nat) (s : State), len < 32 → len ≠ 16 →
    exec (.encrypt len) s = .next { s with errKind := 2, errVal := BitVec.ofNat 5 len, errOp := 0x02 })
  ∧ (∀ s : State, s.ksValid = false →
    exec (.encrypt 16) s = .next { s with errKind := 4, errVal := 0, errOp := 0x02 })
  ∧ ∀ s : State, s.ksValid = true →
    ∃ t, exec (.encrypt 16) s = .next t
      ∧ t = { s with st := t.st, dout := t.dout, errKind := 0, errVal := 0, errOp := 0 }
      ∧ (∀ r c : Fin 4, t.dout.byte ⟨r + 4 * c, by omega⟩ = t.st.byte r c)
      ∧ ∃ m : Nat → StateMatrix,
          (∀ r c : Fin 4, (m 0).byte r c =
            s.din.byte ⟨r + 4 * c, by omega⟩ ^^^ s.rk.byte r ⟨c, by omega⟩)
          ∧ (∀ (k : Nat) (hk : k < 9), m (k + 1) =
              addRoundKey (mixColumns (shiftRows (subBytes (m k)))) s.rk ⟨k + 1, by omega⟩)
          ∧ t.st = addRoundKey (shiftRows (subBytes (m 9))) s.rk 10

/-- R293 and R299: the same for DECRYPT and the inverse cipher; `m k` is the state before round 9 - k. -/
def Obligations.DecryptLeavesTheInverseCipherOfDin : Prop :=
  (∀ (len : Nat) (s : State), len < 32 → len ≠ 16 →
    exec (.decrypt len) s = .next { s with errKind := 2, errVal := BitVec.ofNat 5 len, errOp := 0x03 })
  ∧ (∀ s : State, s.ksValid = false →
    exec (.decrypt 16) s = .next { s with errKind := 4, errVal := 0, errOp := 0x03 })
  ∧ ∀ s : State, s.ksValid = true →
    ∃ t, exec (.decrypt 16) s = .next t
      ∧ t = { s with st := t.st, dout := t.dout, errKind := 0, errVal := 0, errOp := 0 }
      ∧ (∀ r c : Fin 4, t.dout.byte ⟨r + 4 * c, by omega⟩ = t.st.byte r c)
      ∧ ∃ m : Nat → StateMatrix,
          (∀ r c : Fin 4, (m 0).byte r c =
            s.din.byte ⟨r + 4 * c, by omega⟩ ^^^ s.rk.byte r ⟨40 + c, by omega⟩)
          ∧ (∀ (k : Nat) (hk : k < 9), m (k + 1) =
              invMixColumns (addRoundKey (invSubBytes (invShiftRows (m k))) s.rk ⟨9 - k, by omega⟩))
          ∧ t.st = addRoundKey (invSubBytes (invShiftRows (m 9))) s.rk 0

/-- R292, R293 and R415: with KS_VALID = 1, ENCRYPT and DECRYPT leave exactly the state that the step-mode
commands leave when executed one transform at a time. This is at the level of exec: CMD, which each host write of
a command would change, is held fixed. -/
def Obligations.BlockCommandsEqualTheirStepModeCommands : Prop :=
  ∀ s : State, s.ksValid = true →
    execAll encryptSteps s = exec (.encrypt 16) s ∧ execAll decryptSteps s = exec (.decrypt 16) s

/-- R294: the two ciphers undo each other, for every schedule and state. -/
def Obligations.CiphersUndoEachOther : Prop :=
  ∀ (m : StateMatrix) (rk : Schedule),
    invCipher (cipher m rk) rk = m ∧ cipher (invCipher m rk) rk = m

/-- R294 and R299: DECRYPT of the DOUT of an ENCRYPT under the same RK returns the original DIN, and the
other way round. -/
def Obligations.DecryptAfterEncryptReturnsDin : Prop :=
  ∀ s : State, s.ksValid = true →
    (∃ t u, exec (.encrypt 16) s = .next t ∧ exec (.decrypt 16) { t with din := t.dout } = .next u
      ∧ u.dout = s.din)
    ∧ ∃ t u, exec (.decrypt 16) s = .next t ∧ exec (.encrypt 16) { t with din := t.dout } = .next u
      ∧ u.dout = s.din

/-- R301: from two states that agree on DIN, RK and KS_VALID, ENCRYPT reports the same error, and when it reports
none leaves the same STATE and DOUT; so does DECRYPT. -/
def Obligations.BlockCommandsReadOnlyDinAndSchedule : Prop :=
  ∀ (s s' : State) (len : Nat), s.din = s'.din → s.rk = s'.rk → s.ksValid = s'.ksValid →
    (∃ t t', exec (.encrypt len) s = .next t ∧ exec (.encrypt len) s' = .next t'
      ∧ t.errKind = t'.errKind ∧ t.errVal = t'.errVal ∧ t.errOp = t'.errOp
      ∧ (t.errKind = 0 → t.st = t'.st ∧ t.dout = t'.dout))
    ∧ ∃ t t', exec (.decrypt len) s = .next t ∧ exec (.decrypt len) s' = .next t'
      ∧ t.errKind = t'.errKind ∧ t.errVal = t'.errVal ∧ t.errOp = t'.errOp
      ∧ (t.errKind = 0 → t.st = t'.st ∧ t.dout = t'.dout)

/-- R47 and R83: after STORE_STATE, STc reads as DOUTc; after LOAD_STATE, STc reads as DINc. -/
def Obligations.StateWindowReadsAsTheBlockRegisters : Prop :=
  ∀ (s : State) (c : Fin 4),
    (∃ t, exec .storeState s = .next t
      ∧ memRead (BitVec.ofNat 12 (0x040 + 4 * c)) t = memRead (BitVec.ofNat 12 (0x030 + 4 * c)) t)
    ∧ ∃ t, exec (.loadState 16) s = .next t
      ∧ memRead (BitVec.ofNat 12 (0x040 + 4 * c)) t = memRead (BitVec.ofNat 12 (0x020 + 4 * c)) t

/-- R267: the inverse pairs of the round transforms, in both orders. -/
def Obligations.RoundTransformsHaveTheirInverses : Prop :=
  ∀ (m : StateMatrix) (rk : Schedule) (k : Fin 11),
    invSubBytes (subBytes m) = m ∧ subBytes (invSubBytes m) = m
    ∧ invShiftRows (shiftRows m) = m ∧ shiftRows (invShiftRows m) = m
    ∧ invMixColumns (mixColumns m) = m ∧ mixColumns (invMixColumns m) = m
    ∧ addRoundKey (addRoundKey m rk k) rk k = m

/-- R268 and R269: SubBytes, InvSubBytes and AddRoundKey act on each byte lane alone; ShiftRows and InvShiftRows
permute each row; column c of MixColumns and InvMixColumns depends only on column c; SubBytes commutes with
ShiftRows and InvSubBytes with InvShiftRows. -/
def Obligations.TransformsActOnTheirLanes : Prop :=
  ∀ (m m' : StateMatrix) (rk : Schedule) (k : Fin 11),
    subBytes (shiftRows m) = shiftRows (subBytes m)
    ∧ invSubBytes (invShiftRows m) = invShiftRows (invSubBytes m)
    ∧ (∀ r c : Fin 4, m.byte r c = m'.byte r c →
        (subBytes m).byte r c = (subBytes m').byte r c
        ∧ (invSubBytes m).byte r c = (invSubBytes m').byte r c
        ∧ (addRoundKey m rk k).byte r c = (addRoundKey m' rk k).byte r c)
    ∧ (∀ r : Fin 4, ∃ σ τ : Equiv.Perm (Fin 4), ∀ c : Fin 4,
        (shiftRows m).byte r c = m.byte r (σ c) ∧ (invShiftRows m).byte r c = m.byte r (τ c))
    ∧ ∀ c : Fin 4, (∀ r : Fin 4, m.byte r c = m'.byte r c) → ∀ r : Fin 4,
        (mixColumns m).byte r c = (mixColumns m').byte r c
        ∧ (invMixColumns m).byte r c = (invMixColumns m').byte r c

/-! ### Byte commands: spec files 40 and 41 -/

/-- R201 to R206 and R210 to R215: the six GF_MUL commands leave their product in RESULT and change nothing
else but ERR. -/
def Obligations.GfMulCommandsWriteTheProduct : Prop :=
  (∀ (arg : Byte) (s : State),
    exec (.gfMul02 arg) s = .next { s with result := mul02 arg, errKind := 0, errVal := 0, errOp := 0 }
    ∧ exec (.gfMul03 arg) s =
        .next { s with result := mul02 arg ^^^ arg, errKind := 0, errVal := 0, errOp := 0 }
    ∧ exec (.gfMul09 arg) s =
        .next { s with
          result := mul02 (mul02 (mul02 arg)) ^^^ arg, errKind := 0, errVal := 0, errOp := 0 }
    ∧ exec (.gfMul0b arg) s =
        .next { s with
          result := mul02 (mul02 (mul02 arg)) ^^^ mul02 arg ^^^ arg, errKind := 0, errVal := 0, errOp := 0 }
    ∧ exec (.gfMul0d arg) s =
        .next { s with
          result := mul02 (mul02 (mul02 arg)) ^^^ mul02 (mul02 arg) ^^^ arg
          errKind := 0, errVal := 0, errOp := 0 }
    ∧ exec (.gfMul0e arg) s =
        .next { s with
          result := mul02 (mul02 (mul02 arg)) ^^^ mul02 (mul02 arg) ^^^ mul02 arg
          errKind := 0, errVal := 0, errOp := 0 })
  ∧ ∀ b : Byte, (mul02 b).toNat =
      if b.toNat < 0x80 then (2 * b.toNat) % 2 ^ 8 else (2 * b.toNat ^^^ 0x1B) % 2 ^ 8

/-- R200: XOR is addition of polynomials over GF(2), the general product is their multiplication modulo 0x11B, and
what each GF_MUL command leaves in RESULT is the product of its operand and its constant in that field. -/
def Obligations.ProductsAreThoseOfTheField : Prop :=
  (∀ a b : Byte, bytePoly (a ^^^ b) = bytePoly a + bytePoly b ∧ isFieldProduct (gmul a b) a b)
  ∧ ∀ (arg : Byte) (s t : State),
    (exec (.gfMul02 arg) s = .next t → isFieldProduct t.result arg 0x02)
    ∧ (exec (.gfMul03 arg) s = .next t → isFieldProduct t.result arg 0x03)
    ∧ (exec (.gfMul09 arg) s = .next t → isFieldProduct t.result arg 0x09)
    ∧ (exec (.gfMul0b arg) s = .next t → isFieldProduct t.result arg 0x0b)
    ∧ (exec (.gfMul0d arg) s = .next t → isFieldProduct t.result arg 0x0d)
    ∧ (exec (.gfMul0e arg) s = .next t → isFieldProduct t.result arg 0x0e)

/-- R207 and R208: the general product is the sum of the mul02^i(a) over the set bits of c, and agrees with each
constant multiplier; for each of those, zero goes to zero and sums to sums; mul02 is a bijection with the inverse
R208 gives. -/
def Obligations.MultipliersAreLinearAndMul02IsABijection : Prop :=
  (∀ a c : Byte, gmul a c =
    (if c.getLsbD 0 then a else 0)
      ^^^ (if c.getLsbD 1 then mul02 a else 0)
      ^^^ (if c.getLsbD 2 then mul02 (mul02 a) else 0)
      ^^^ (if c.getLsbD 3 then mul02 (mul02 (mul02 a)) else 0)
      ^^^ (if c.getLsbD 4 then mul02 (mul02 (mul02 (mul02 a))) else 0)
      ^^^ (if c.getLsbD 5 then mul02 (mul02 (mul02 (mul02 (mul02 a)))) else 0)
      ^^^ (if c.getLsbD 6 then mul02 (mul02 (mul02 (mul02 (mul02 (mul02 a))))) else 0)
      ^^^ (if c.getLsbD 7 then mul02 (mul02 (mul02 (mul02 (mul02 (mul02 (mul02 a)))))) else 0))
  ∧ (∀ a : Byte, gmul a 0x01 = a ∧ gmul a 0x02 = mul02 a ∧ gmul a 0x03 = mul03 a ∧ gmul a 0x09 = mul09 a
    ∧ gmul a 0x0b = mul0b a ∧ gmul a 0x0d = mul0d a ∧ gmul a 0x0e = mul0e a)
  ∧ (∀ f ∈ [mul02, mul03, mul09, mul0b, mul0d, mul0e],
    f 0x00 = 0x00 ∧ ∀ a b : Byte, f (a ^^^ b) = f a ^^^ f b)
  ∧ Function.Bijective mul02
  ∧ ∀ y : Byte,
    (y.getLsbD 0 = false → mul02 (y >>> 1) = y)
    ∧ (y.getLsbD 0 = true → mul02 (((y ^^^ 0x1B) >>> 1) ||| 0x80) = y)

/-- R225 and R226: SBOX and INV_SBOX leave the table entry of their operand in RESULT and change nothing else
but ERR; the entries the spec's examples and corner cases name. -/
def Obligations.SboxCommandsWriteTheEntry : Prop :=
  (∀ (arg : Byte) (s : State),
    exec (.sbox arg) s = .next { s with result := sbox arg, errKind := 0, errVal := 0, errOp := 0 }
    ∧ exec (.invSbox arg) s =
        .next { s with result := invSbox arg, errKind := 0, errVal := 0, errOp := 0 })
  ∧ sbox 0x00 = 0x63 ∧ sbox 0x53 = 0xED ∧ sbox 0xFF = 0x16 ∧ sbox 0x52 = 0x00
  ∧ invSbox 0x00 = 0x52 ∧ invSbox 0x63 = 0x00 ∧ invSbox 0xED = 0x53 ∧ invSbox 0x16 = 0xFF

/-- R224: the two tables are permutations inverse to each other, and SBOX has no fixed point and no opposite
fixed point. -/
def Obligations.SboxTablesAreInversePermutations : Prop :=
  Function.Bijective sbox ∧ Function.Bijective invSbox
  ∧ ∀ x : Byte, invSbox (sbox x) = x ∧ sbox (invSbox x) = x ∧ sbox x ≠ x ∧ sbox x ≠ x ^^^ 0xFF

/-- R223: the first row of RCON is 0x01 doubled over and over, the other rows are 0x00. -/
def Obligations.RconIsRepeatedDoubling : Prop :=
  rcon 0 0 = 0x01 ∧ (∀ j < 9, rcon 0 (j + 1) = mul02 (rcon 0 j)) ∧ (∀ r ≠ 0, ∀ j < 10, rcon r j = 0x00)
  ∧ (List.range 10).map (rcon 0) = [0x01, 0x02, 0x04, 0x08, 0x10, 0x20, 0x40, 0x80, 0x1B, 0x36]

/-- R222: SBOX[x] is the affine map of the field inverse of x, with 0x00 mapped to 0x00. -/
def Obligations.SboxIsTheAffineMapOfTheInverse : Prop :=
  ∀ x : Byte, ∃ b : Byte, (if x = 0 then b = 0 else gmul x b = 0x01)
    ∧ sbox x = b ^^^ b.rotateLeft 1 ^^^ b.rotateLeft 2 ^^^ b.rotateLeft 3 ^^^ b.rotateLeft 4 ^^^ 0x63

/-! ### Framing at testbench level (spec file 45) -/

/-- R326: the lengths of the framing functions' outputs. -/
def Obligations.StreamLengthsAreBlockMultiples : Prop :=
  ∀ s key out : List Byte,
    (encryptStream s key = .ok out → out.length = 16 * ((s.length + 15) / 16))
    ∧ (decryptStream s key = .ok out → out.length ≤ s.length)

/-- R327: with a key of at most 16 bytes the stream round trip returns the stream stripped of its trailing 0x00
and 0x01 bytes, a part of the stream from its start; it returns the stream itself exactly when the stream is empty
or its last byte is neither. -/
def Obligations.StreamRoundTripIsStrip : Prop :=
  ∀ s key : List Byte, key.length ≤ 16 →
    ∃ c, encryptStream s key = .ok c ∧ decryptStream c key = .ok (strip s) ∧ strip s <+: s
      ∧ (strip s = s ↔ s = [] ∨ ∃ b, s.getLast? = some b ∧ b ≠ 0x00 ∧ b ≠ 0x01)

/-- R324 and R323: a key longer than 16 bytes raises INVALID_KEY_LENGTH with its length; a ciphertext whose
length is no multiple of 16 raises INVALID_BLOCK_LENGTH with the length of its last piece. -/
def Obligations.StreamFunctionsRaiseOnBadLengths : Prop :=
  ∀ s key : List Byte,
    (16 < key.length → encryptStream s key = .error ⟨.invalidKeyLength, key.length⟩
      ∧ decryptStream s key = .error ⟨.invalidKeyLength, key.length⟩)
    ∧ (key.length ≤ 16 → s.length % 16 ≠ 0 →
      decryptStream s key = .error ⟨.invalidBlockLength, s.length % 16⟩)

/-- R328: encrypt_stream's lines, run on the block from any idle state with nothing pending or observed, end with every claim
held, and the DOUT words read, unpacked and appended, are encrypt_stream's output; decrypt_stream's lines the same,
followed by Strip on the host. -/
def Obligations.FramingRunsOnTheBlock : Prop :=
  ∀ (s : State) (stream key : List Byte) (lines : List Line),
    s.busy = false → s.pending = [] → s.observed = [] →
    (encryptStreamLines stream key = .ok lines →
      ∃ k t, Sys2Proof.core.run k (s.withLines lines) = .next t
        ∧ t.runEnded = true ∧ t.claimsHeld = true ∧ encryptStream stream key = .ok t.doutBytes)
    ∧ (decryptStreamLines stream key = .ok lines →
      ∃ k t, Sys2Proof.core.run k (s.withLines lines) = .next t
        ∧ t.runEnded = true ∧ t.claimsHeld = true ∧ decryptStream stream key = .ok (strip t.doutBytes))
end

