-- ==== Sys2Proof/Laws/Data.lean ====
section
/-!
SUPPORT. Sys2Proof/Laws/Data.lean: reading by index what was built by index, and equality byte by byte, for
blocks, columns, state matrices and schedules (R15, R16).
-/
namespace Sys2Proof

@[simp] theorem Block.byte_ofBytes (f : Fin 16 → Byte) (i : Fin 16) : (Block.ofBytes f).byte i = f i := by
  simp [Block.byte, Block.ofBytes]

@[simp] theorem Column.byte_ofBytes (f : Fin 4 → Byte) (r : Fin 4) : (Column.ofBytes f).byte r = f r := by
  simp [Column.byte, Column.ofBytes]

@[simp] theorem StateMatrix.byte_ofBytes (f : Fin 4 → Fin 4 → Byte) (r c : Fin 4) :
    (StateMatrix.ofBytes f).byte r c = f r c := by
  simp [StateMatrix.byte, StateMatrix.ofBytes]

@[simp] theorem Schedule.byte_ofBytes (f : Fin 4 → Fin 44 → Byte) (r : Fin 4) (c : Fin 44) :
    (Schedule.ofBytes f).byte r c = f r c := by
  simp [Schedule.byte, Schedule.ofBytes]

theorem Block.ext_byte {a b : Block} (h : ∀ i, a.byte i = b.byte i) : a = b :=
  Vector.ext fun i hi => h ⟨i, hi⟩

theorem Column.ext_byte {a b : Column} (h : ∀ r, a.byte r = b.byte r) : a = b :=
  Vector.ext fun r hr => h ⟨r, hr⟩

theorem StateMatrix.ext_byte {a b : StateMatrix} (h : ∀ r c, a.byte r c = b.byte r c) : a = b :=
  Vector.ext fun r hr => Vector.ext fun c hc => h ⟨r, hr⟩ ⟨c, hc⟩

theorem Schedule.ext_byte {a b : Schedule} (h : ∀ r c, a.byte r c = b.byte r c) : a = b :=
  Vector.ext fun r hr => Vector.ext fun c hc => h ⟨r, hr⟩ ⟨c, hc⟩

end Sys2Proof
end

