-- ==== Sys2Proof/Laws/Blocks.lean ====
section
/-!
SUPPORT. Sys2Proof/Laws/Blocks.lean: the round transforms and the schedule byte by byte (R241 to R266), and Load
and Unload undo each other (R290, R291).
-/
namespace Sys2Proof.Machine

/-! ### Round transforms, byte by byte -/

@[simp] theorem subBytes_byte (m : StateMatrix) (r c : Fin 4) :
    (subBytes m).byte r c = sbox (m.byte r c) := by
  simp [subBytes]

@[simp] theorem invSubBytes_byte (m : StateMatrix) (r c : Fin 4) :
    (invSubBytes m).byte r c = invSbox (m.byte r c) := by
  simp [invSubBytes]

@[simp] theorem shiftRows_byte (m : StateMatrix) (r c : Fin 4) :
    (shiftRows m).byte r c = m.byte r (c + r) := by
  simp [shiftRows]

@[simp] theorem invShiftRows_byte (m : StateMatrix) (r c : Fin 4) :
    (invShiftRows m).byte r c = m.byte r (c - r) := by
  simp [invShiftRows]

@[simp] theorem mixColumns_byte (m : StateMatrix) (r c : Fin 4) :
    (mixColumns m).byte r c =
      (mixColumn (m.byte 0 c) (m.byte 1 c) (m.byte 2 c) (m.byte 3 c)).byte r := by
  simp [mixColumns]

@[simp] theorem invMixColumns_byte (m : StateMatrix) (r c : Fin 4) :
    (invMixColumns m).byte r c =
      (invMixColumn (m.byte 0 c) (m.byte 1 c) (m.byte 2 c) (m.byte 3 c)).byte r := by
  simp [invMixColumns]

@[simp] theorem addRoundKey_byte (m : StateMatrix) (rk : Schedule) (k : Fin 11) (r c : Fin 4) :
    (addRoundKey m rk k).byte r c = m.byte r c ^^^ rk.byte r ⟨4 * k + c, by omega⟩ := by
  simp [addRoundKey]

/-! ### Load and Unload -/

@[simp] theorem load_byte (b : Block) (r c : Fin 4) : (load b).byte r c = b.byte ⟨r + 4 * c, by omega⟩ := by
  simp [load]

theorem unload_byte (m : StateMatrix) (r c : Fin 4) :
    (unload m).byte ⟨r + 4 * c, by omega⟩ = m.byte r c := by
  simp only [unload, Block.byte_ofBytes]
  congr 1
  all_goals (apply Fin.ext; simp; try omega)

@[simp] theorem load_unload (m : StateMatrix) : load (unload m) = m :=
  StateMatrix.ext_byte fun r c => by rw [load_byte, unload_byte]

@[simp] theorem unload_load (b : Block) : unload (load b) = b :=
  Block.ext_byte fun i => by
    simp only [unload, Block.byte_ofBytes, load_byte]
    congr 1
    apply Fin.ext
    simp
    omega

/-! ### The schedule, column by column -/

theorem scheduleColumn_lt (p : Block) (c : Fin 4) : scheduleColumn p c = paddedColumn p c := by
  fin_cases c <;> rfl

theorem scheduleColumn_add4 (p : Block) (c : Nat) :
    scheduleColumn p (c + 4) = nextColumn (c + 4) (scheduleColumn p c) (scheduleColumn p (c + 3)) := rfl

@[simp] theorem padKey_byte (key : Block) (len : Nat) (i : Fin 16) :
    (padKey key len).byte i = if i.val < len then key.byte i else 0x01 := by
  simp [padKey]

@[simp] theorem keyExpansion_byte (key : Block) (len : Nat) (r : Fin 4) (c : Fin 44) :
    (keyExpansion key len).byte r c = (scheduleColumn (padKey key len) c).byte r := by
  simp [keyExpansion]

/-- Round key k, byte by byte (R248). -/
theorem roundKey_byte (rk : Schedule) (k : Fin 11) (r j : Fin 4) :
    (roundKey rk k).byte ⟨r + 4 * j, by omega⟩ = rk.byte r ⟨4 * k + j, by omega⟩ := by
  simp only [roundKey, Block.byte_ofBytes]
  congr 1
  all_goals (apply Fin.ext; simp; try omega)

end Sys2Proof.Machine
end

