-- ==== Sys2Proof/Laws/Encoding.lean ====
section
/-!
SUPPORT. Sys2Proof/Laws/Encoding.lean: a word is its six fields (R121), masking acts field by field, and the rows
of R124 conflict pairwise, so that the first row that selects a word is the only one.
-/
namespace Sys2Proof

/-! ### A word and its fields -/

theorem word_eq_fields (w : Word) :
    w = w.extractLsb' 28 4 ++ w.extractLsb' 24 4 ++ w.extractLsb' 21 3 ++ w.extractLsb' 16 5
      ++ w.extractLsb' 8 8 ++ w.extractLsb' 0 8 := by
  apply BitVec.eq_of_getLsbD_eq
  intro i hi
  simp only [BitVec.getLsbD_append, BitVec.getLsbD_extractLsb']
  grind

theorem word_ext {w v : Word} (h28 : w.extractLsb' 28 4 = v.extractLsb' 28 4)
    (h24 : w.extractLsb' 24 4 = v.extractLsb' 24 4) (h21 : w.extractLsb' 21 3 = v.extractLsb' 21 3)
    (h16 : w.extractLsb' 16 5 = v.extractLsb' 16 5) (h8 : w.extractLsb' 8 8 = v.extractLsb' 8 8)
    (h0 : w.extractLsb' 0 8 = v.extractLsb' 0 8) : w = v := by
  rw [word_eq_fields w, word_eq_fields v, h28, h24, h21, h16, h8, h0]

/-- The fields of a command word (R121). -/
theorem commandWord_fields (idx : BitVec 4) (len : BitVec 5) (arg op : Byte) :
    (commandWord idx len arg op).extractLsb' 28 4 = 0
    ∧ (commandWord idx len arg op).extractLsb' 24 4 = idx
    ∧ (commandWord idx len arg op).extractLsb' 21 3 = 0
    ∧ (commandWord idx len arg op).extractLsb' 16 5 = len
    ∧ (commandWord idx len arg op).extractLsb' 8 8 = arg
    ∧ (commandWord idx len arg op).extractLsb' 0 8 = op := by
  unfold commandWord
  refine ⟨?_, ?_, ?_, ?_, ?_, ?_⟩ <;>
    (ext i hi; simp only [BitVec.getElem_extractLsb', BitVec.getLsbD_append]; simp; try grind)

@[simp] theorem opField_commandWord (idx : BitVec 4) (len : BitVec 5) (arg op : Byte) :
    opField (commandWord idx len arg op) = op :=
  (commandWord_fields idx len arg op).2.2.2.2.2

@[simp] theorem argField_commandWord (idx : BitVec 4) (len : BitVec 5) (arg op : Byte) :
    argField (commandWord idx len arg op) = arg :=
  (commandWord_fields idx len arg op).2.2.2.2.1

@[simp] theorem lenField_commandWord (idx : BitVec 4) (len : BitVec 5) (arg op : Byte) :
    lenField (commandWord idx len arg op) = len.toNat :=
  congrArg BitVec.toNat (commandWord_fields idx len arg op).2.2.2.1

@[simp] theorem idxField_commandWord (idx : BitVec 4) (len : BitVec 5) (arg op : Byte) :
    idxField (commandWord idx len arg op) = idx.toNat :=
  congrArg BitVec.toNat (commandWord_fields idx len arg op).2.1

theorem lenField_lt (w : Word) : lenField w < 32 := (w.extractLsb' 16 5).isLt

theorem idxField_lt (w : Word) : idxField w < 16 := (w.extractLsb' 24 4).isLt

theorem ofNat_lenField (w : Word) : BitVec.ofNat 5 (lenField w) = w.extractLsb' 16 5 := by
  simp only [lenField, BitVec.ofNat_toNat, BitVec.setWidth_eq]

theorem ofNat_idxField (w : Word) : BitVec.ofNat 4 (idxField w) = w.extractLsb' 24 4 := by
  simp only [idxField, BitVec.ofNat_toNat, BitVec.setWidth_eq]

/-! ### Masking, field by field -/

theorem and_eq_iff_fields (w m p : Word) : w &&& m = p ↔
    w.extractLsb' 28 4 &&& m.extractLsb' 28 4 = p.extractLsb' 28 4
    ∧ w.extractLsb' 24 4 &&& m.extractLsb' 24 4 = p.extractLsb' 24 4
    ∧ w.extractLsb' 21 3 &&& m.extractLsb' 21 3 = p.extractLsb' 21 3
    ∧ w.extractLsb' 16 5 &&& m.extractLsb' 16 5 = p.extractLsb' 16 5
    ∧ w.extractLsb' 8 8 &&& m.extractLsb' 8 8 = p.extractLsb' 8 8
    ∧ w.extractLsb' 0 8 &&& m.extractLsb' 0 8 = p.extractLsb' 0 8 := by
  simp only [← BitVec.extractLsb'_and]
  constructor
  · rintro rfl
    exact ⟨rfl, rfl, rfl, rfl, rfl, rfl⟩
  · rintro ⟨a, b, c, d, e, f⟩
    exact word_ext a b c d e f

@[simp] theorem and_ones3 (x : BitVec 3) : x &&& 7#3 = x := BitVec.and_allOnes
@[simp] theorem and_ones4 (x : BitVec 4) : x &&& 15#4 = x := BitVec.and_allOnes
@[simp] theorem and_ones5 (x : BitVec 5) : x &&& 31#5 = x := BitVec.and_allOnes
@[simp] theorem and_ones8 (x : BitVec 8) : x &&& 255#8 = x := BitVec.and_allOnes

/-! ### The rows of R124 -/

/-- Two rows conflict when a bit both masks cover differs in their patterns: no word selects both. -/
abbrev OpcodeRow.conflicts (a b : OpcodeRow) : Prop := a.mask &&& b.mask &&& (a.pattern ^^^ b.pattern) ≠ 0

theorem rows_conflict_pairwise : opcodeRows.Pairwise OpcodeRow.conflicts := by decide

theorem OpcodeRow.not_selects_of_conflicts {a b : OpcodeRow} (h : a.conflicts b) {w : Word}
    (ha : a.selects w = true) : b.selects w = false := by
  by_contra hb
  simp only [OpcodeRow.selects, beq_iff_eq, Bool.not_eq_false] at ha hb
  apply h
  rw [← ha, ← hb]
  ext i hi
  simp only [BitVec.getElem_and, BitVec.getElem_xor]
  grind

theorem find_row {rows : List OpcodeRow} (hp : rows.Pairwise OpcodeRow.conflicts) {row : OpcodeRow}
    (hm : row ∈ rows) {w : Word} (hw : row.selects w = true) :
    rows.find? (fun r => r.selects w) = some row := by
  induction rows with
  | nil => simp at hm
  | cons a rest ih =>
    obtain ⟨hc, hp⟩ := List.pairwise_cons.mp hp
    rcases List.mem_cons.mp hm with rfl | hm
    · simp [hw]
    · have : a.selects w = false := by
        by_contra ha
        have := OpcodeRow.not_selects_of_conflicts (hc row hm) (by simpa using ha)
        simp [this] at hw
      simp [this, ih hp hm]

/-- A word decodes by the row that selects it (R125). -/
theorem decode_of_row {row : OpcodeRow} (hm : row ∈ opcodeRows) {w : Word} (hw : row.selects w = true) :
    decode w = .ok (row.build w) := by
  simp [decode, find_row rows_conflict_pairwise hm hw]

/-- A word that decodes is selected by a row (R125). -/
theorem row_of_decode {w : Word} {i : Instr} (h : decode w = .ok i) :
    ∃ row ∈ opcodeRows, row.selects w = true ∧ row.build w = i := by
  unfold decode at h
  split at h
  · next row hf =>
    have hs := List.find?_some hf
    exact ⟨row, List.mem_of_find?_eq_some hf, hs, by simpa using h⟩
  · cases h

end Sys2Proof
end

