-- ==== Sys2Proof/Laws/State.lean ====
section
/-!
SUPPORT. Sys2Proof/Laws/State.lean: one lemma per field for each named update of State, true by rfl, so that no
proof unfolds an update.
-/
namespace Sys2Proof.Machine

/-! ### raise (R406) -/

@[simp] theorem raise_key (kind : ErrorKind) (val : Nat) (op : Byte) (s : State) :
    (raise kind val op s).key = s.key := rfl

@[simp] theorem raise_din (kind : ErrorKind) (val : Nat) (op : Byte) (s : State) :
    (raise kind val op s).din = s.din := rfl

@[simp] theorem raise_dout (kind : ErrorKind) (val : Nat) (op : Byte) (s : State) :
    (raise kind val op s).dout = s.dout := rfl

@[simp] theorem raise_st (kind : ErrorKind) (val : Nat) (op : Byte) (s : State) :
    (raise kind val op s).st = s.st := rfl

@[simp] theorem raise_rk (kind : ErrorKind) (val : Nat) (op : Byte) (s : State) :
    (raise kind val op s).rk = s.rk := rfl

@[simp] theorem raise_ksValid (kind : ErrorKind) (val : Nat) (op : Byte) (s : State) :
    (raise kind val op s).ksValid = s.ksValid := rfl

@[simp] theorem raise_errKind (kind : ErrorKind) (val : Nat) (op : Byte) (s : State) :
    (raise kind val op s).errKind = kind.code := rfl

@[simp] theorem raise_errVal (kind : ErrorKind) (val : Nat) (op : Byte) (s : State) :
    (raise kind val op s).errVal = BitVec.ofNat 5 val := rfl

@[simp] theorem raise_errOp (kind : ErrorKind) (val : Nat) (op : Byte) (s : State) :
    (raise kind val op s).errOp = op := rfl

@[simp] theorem raise_result (kind : ErrorKind) (val : Nat) (op : Byte) (s : State) :
    (raise kind val op s).result = s.result := rfl

@[simp] theorem raise_cmd (kind : ErrorKind) (val : Nat) (op : Byte) (s : State) :
    (raise kind val op s).cmd = s.cmd := rfl

@[simp] theorem raise_busy (kind : ErrorKind) (val : Nat) (op : Byte) (s : State) :
    (raise kind val op s).busy = s.busy := rfl

@[simp] theorem raise_pending (kind : ErrorKind) (val : Nat) (op : Byte) (s : State) :
    (raise kind val op s).pending = s.pending := rfl

@[simp] theorem raise_observed (kind : ErrorKind) (val : Nat) (op : Byte) (s : State) :
    (raise kind val op s).observed = s.observed := rfl

@[simp] theorem raise_draws (kind : ErrorKind) (val : Nat) (op : Byte) (s : State) :
    (raise kind val op s).draws = s.draws := rfl

/-! ### succeed (R407) -/

@[simp] theorem succeed_key (s : State) : (succeed s).key = s.key := rfl

@[simp] theorem succeed_din (s : State) : (succeed s).din = s.din := rfl

@[simp] theorem succeed_dout (s : State) : (succeed s).dout = s.dout := rfl

@[simp] theorem succeed_st (s : State) : (succeed s).st = s.st := rfl

@[simp] theorem succeed_rk (s : State) : (succeed s).rk = s.rk := rfl

@[simp] theorem succeed_ksValid (s : State) : (succeed s).ksValid = s.ksValid := rfl

@[simp] theorem succeed_errKind (s : State) : (succeed s).errKind = 0 := rfl

@[simp] theorem succeed_errVal (s : State) : (succeed s).errVal = 0 := rfl

@[simp] theorem succeed_errOp (s : State) : (succeed s).errOp = 0 := rfl

@[simp] theorem succeed_result (s : State) : (succeed s).result = s.result := rfl

@[simp] theorem succeed_cmd (s : State) : (succeed s).cmd = s.cmd := rfl

@[simp] theorem succeed_busy (s : State) : (succeed s).busy = s.busy := rfl

@[simp] theorem succeed_pending (s : State) : (succeed s).pending = s.pending := rfl

@[simp] theorem succeed_observed (s : State) : (succeed s).observed = s.observed := rfl

@[simp] theorem succeed_draws (s : State) : (succeed s).draws = s.draws := rfl

/-! ### State.reset (R33), but for RK -/

@[simp] theorem reset_key : State.reset.key = Vector.replicate 16 0 := rfl

@[simp] theorem reset_din : State.reset.din = Vector.replicate 16 0 := rfl

@[simp] theorem reset_dout : State.reset.dout = Vector.replicate 16 0 := rfl

@[simp] theorem reset_st : State.reset.st = Vector.replicate 4 (Vector.replicate 4 0) := rfl

@[simp] theorem reset_ksValid : State.reset.ksValid = false := rfl

@[simp] theorem reset_errKind : State.reset.errKind = 0 := rfl

@[simp] theorem reset_errVal : State.reset.errVal = 0 := rfl

@[simp] theorem reset_errOp : State.reset.errOp = 0 := rfl

@[simp] theorem reset_result : State.reset.result = 0 := rfl

@[simp] theorem reset_cmd : State.reset.cmd = 0 := rfl

@[simp] theorem reset_busy : State.reset.busy = false := rfl

@[simp] theorem reset_pending : State.reset.pending = [] := rfl

@[simp] theorem reset_observed : State.reset.observed = [] := rfl

@[simp] theorem reset_draws : State.reset.draws = 1 := rfl

/-! ### coreReset (R450, R451) -/

@[simp] theorem coreReset_key (s : State) : (coreReset s).key = Vector.replicate 16 0 := rfl

@[simp] theorem coreReset_din (s : State) : (coreReset s).din = Vector.replicate 16 0 := rfl

@[simp] theorem coreReset_dout (s : State) : (coreReset s).dout = Vector.replicate 16 0 := rfl

@[simp] theorem coreReset_st (s : State) : (coreReset s).st = Vector.replicate 4 (Vector.replicate 4 0) := rfl

@[simp] theorem coreReset_rk (s : State) : (coreReset s).rk = Config.rkReset s.draws := rfl

@[simp] theorem coreReset_ksValid (s : State) : (coreReset s).ksValid = false := rfl

@[simp] theorem coreReset_errKind (s : State) : (coreReset s).errKind = 0 := rfl

@[simp] theorem coreReset_errVal (s : State) : (coreReset s).errVal = 0 := rfl

@[simp] theorem coreReset_errOp (s : State) : (coreReset s).errOp = 0 := rfl

@[simp] theorem coreReset_result (s : State) : (coreReset s).result = 0 := rfl

@[simp] theorem coreReset_cmd (s : State) : (coreReset s).cmd = 0 := rfl

@[simp] theorem coreReset_busy (s : State) : (coreReset s).busy = false := rfl

@[simp] theorem coreReset_pending (s : State) : (coreReset s).pending = s.pending := rfl

@[simp] theorem coreReset_observed (s : State) : (coreReset s).observed = s.observed := rfl

@[simp] theorem coreReset_draws (s : State) : (coreReset s).draws = s.draws + 1 := rfl

/-! ### observe (R84) -/

@[simp] theorem observe_key (off : Offset) (claim : Option Word) (s : State) :
    (observe off claim s).key = s.key := rfl

@[simp] theorem observe_din (off : Offset) (claim : Option Word) (s : State) :
    (observe off claim s).din = s.din := rfl

@[simp] theorem observe_dout (off : Offset) (claim : Option Word) (s : State) :
    (observe off claim s).dout = s.dout := rfl

@[simp] theorem observe_st (off : Offset) (claim : Option Word) (s : State) :
    (observe off claim s).st = s.st := rfl

@[simp] theorem observe_rk (off : Offset) (claim : Option Word) (s : State) :
    (observe off claim s).rk = s.rk := rfl

@[simp] theorem observe_ksValid (off : Offset) (claim : Option Word) (s : State) :
    (observe off claim s).ksValid = s.ksValid := rfl

@[simp] theorem observe_errKind (off : Offset) (claim : Option Word) (s : State) :
    (observe off claim s).errKind = s.errKind := rfl

@[simp] theorem observe_errVal (off : Offset) (claim : Option Word) (s : State) :
    (observe off claim s).errVal = s.errVal := rfl

@[simp] theorem observe_errOp (off : Offset) (claim : Option Word) (s : State) :
    (observe off claim s).errOp = s.errOp := rfl

@[simp] theorem observe_result (off : Offset) (claim : Option Word) (s : State) :
    (observe off claim s).result = s.result := rfl

@[simp] theorem observe_cmd (off : Offset) (claim : Option Word) (s : State) :
    (observe off claim s).cmd = s.cmd := rfl

@[simp] theorem observe_busy (off : Offset) (claim : Option Word) (s : State) :
    (observe off claim s).busy = s.busy := rfl

@[simp] theorem observe_pending (off : Offset) (claim : Option Word) (s : State) :
    (observe off claim s).pending = s.pending := rfl

@[simp] theorem observe_observed (off : Offset) (claim : Option Word) (s : State) :
    (observe off claim s).observed = s.observed ++ [⟨off, memRead off s, claim⟩] := rfl

@[simp] theorem observe_draws (off : Offset) (claim : Option Word) (s : State) :
    (observe off claim s).draws = drawsAfterRead off s := rfl

/-! ### withFetchWord -/

@[simp] theorem withFetchWord_key (s : State) (nbits w : Nat) :
    (s.withFetchWord nbits w).key = s.key := rfl

@[simp] theorem withFetchWord_din (s : State) (nbits w : Nat) :
    (s.withFetchWord nbits w).din = s.din := rfl

@[simp] theorem withFetchWord_dout (s : State) (nbits w : Nat) :
    (s.withFetchWord nbits w).dout = s.dout := rfl

@[simp] theorem withFetchWord_st (s : State) (nbits w : Nat) :
    (s.withFetchWord nbits w).st = s.st := rfl

@[simp] theorem withFetchWord_rk (s : State) (nbits w : Nat) :
    (s.withFetchWord nbits w).rk = s.rk := rfl

@[simp] theorem withFetchWord_ksValid (s : State) (nbits w : Nat) :
    (s.withFetchWord nbits w).ksValid = s.ksValid := rfl

@[simp] theorem withFetchWord_errKind (s : State) (nbits w : Nat) :
    (s.withFetchWord nbits w).errKind = s.errKind := rfl

@[simp] theorem withFetchWord_errVal (s : State) (nbits w : Nat) :
    (s.withFetchWord nbits w).errVal = s.errVal := rfl

@[simp] theorem withFetchWord_errOp (s : State) (nbits w : Nat) :
    (s.withFetchWord nbits w).errOp = s.errOp := rfl

@[simp] theorem withFetchWord_result (s : State) (nbits w : Nat) :
    (s.withFetchWord nbits w).result = s.result := rfl

@[simp] theorem withFetchWord_cmd (s : State) (nbits w : Nat) :
    (s.withFetchWord nbits w).cmd = s.cmd := rfl

@[simp] theorem withFetchWord_busy (s : State) (nbits w : Nat) :
    (s.withFetchWord nbits w).busy = false := rfl

@[simp] theorem withFetchWord_pending (s : State) (nbits w : Nat) :
    (s.withFetchWord nbits w).pending = .write (Reg.offset .cmd) 4 (tableWord nbits w) :: s.pending := rfl

@[simp] theorem withFetchWord_observed (s : State) (nbits w : Nat) :
    (s.withFetchWord nbits w).observed = s.observed := rfl

@[simp] theorem withFetchWord_draws (s : State) (nbits w : Nat) :
    (s.withFetchWord nbits w).draws = s.draws := rfl

end Sys2Proof.Machine
end

