-- ==== Sys2Proof/Laws/Ops.lean ====
section
/-!
SUPPORT. Sys2Proof/Laws/Ops.lean: what each shared operation can do, once: how a command ends, the operand
checks, the register map, the host accesses and the step.
-/
namespace Sys2Proof.Machine

/-! ### How a command ends -/

theorem complete_eq (s : State) : complete s = .next (succeed s) := rfl

theorem fail_eq (kind : ErrorKind) (val : Nat) (op : Byte) (s : State) :
    fail kind val op s = .next (raise kind val op s) := rfl

@[simp] theorem succeed_idem (s : State) : succeed (succeed s) = succeed s := rfl

theorem code_ne_zero (kind : ErrorKind) : kind.code ≠ 0 := by cases kind <;> decide

/-! ### Operand checks -/

theorem requireKeyLength_of_le {len : Nat} (h : len ≤ 16) (op : Byte) (s : State) (body : Answer) :
    requireKeyLength len op s body = body := by
  simp [requireKeyLength, Nat.not_lt.mpr h]

theorem requireKeyLength_of_gt {len : Nat} (h : 16 < len) (op : Byte) (s : State) (body : Answer) :
    requireKeyLength len op s body = .next (raise .invalidKeyLength len op s) := by
  simp [requireKeyLength, h, fail]

@[simp] theorem requireBlockLength_16 (op : Byte) (s : State) (body : Answer) :
    requireBlockLength 16 op s body = body := rfl

theorem requireBlockLength_of_ne {len : Nat} (h : len ≠ 16) (op : Byte) (s : State) (body : Answer) :
    requireBlockLength len op s body = .next (raise .invalidBlockLength len op s) := by
  simp [requireBlockLength, h, fail]

theorem requireRoundIndex_of_lt {k : Nat} (h : k < 11) (op : Byte) (s : State) (body : Fin 11 → Answer) :
    requireRoundIndex k op s body = body ⟨k, h⟩ := by
  simp [requireRoundIndex, h]

theorem requireRoundIndex_of_ge {k : Nat} (h : 10 < k) (op : Byte) (s : State) (body : Fin 11 → Answer) :
    requireRoundIndex k op s body = .next (raise .invalidRoundIndex k op s) := by
  simp [requireRoundIndex, Nat.not_lt.mpr h, fail]

theorem requireKeySchedule_of_valid {s : State} (h : s.ksValid = true) (op : Byte) (body : Answer) :
    requireKeySchedule op s body = body := by
  simp [requireKeySchedule, h]

theorem requireKeySchedule_of_invalid {s : State} (h : s.ksValid = false) (op : Byte) (body : Answer) :
    requireKeySchedule op s body = .next (raise .noKeySchedule 0 op s) := by
  simp [requireKeySchedule, h, fail]

/-! ### Byte lanes (R82) -/

theorem unpack_toNat (w : Word) (j : Fin 4) : (unpack w j).toNat = w.toNat / 2 ^ (8 * j.val) % 2 ^ 8 := by
  simp [unpack, Nat.shiftRight_eq_div_pow]

theorem joinBytes_toNat (b3 b2 b1 b0 : Byte) :
    (joinBytes b3 b2 b1 b0).toNat
      = b0.toNat + 2 ^ 8 * b1.toNat + 2 ^ 16 * b2.toNat + 2 ^ 24 * b3.toNat := by
  have h3 := b3.isLt
  have h2 := b2.isLt
  have h1 := b1.isLt
  have h0 := b0.isLt
  simp only [joinBytes, BitVec.toNat_append]
  rw [← Nat.shiftLeft_add_eq_or_of_lt h0, ← Nat.shiftLeft_add_eq_or_of_lt h1,
    ← Nat.shiftLeft_add_eq_or_of_lt h2]
  simp only [Nat.shiftLeft_eq]
  omega

theorem joinBytes_unpack (w : Word) :
    joinBytes (unpack w 3) (unpack w 2) (unpack w 1) (unpack w 0) = w := by
  have hw := w.isLt
  apply BitVec.eq_of_toNat_eq
  simp only [joinBytes_toNat, unpack_toNat]
  norm_num
  omega

@[simp] theorem writeLanes_byte (b : Block) (i : Fin 4) (v : Word) (n : Fin 16) :
    (writeLanes b i v).byte n =
      if n.val / 4 = i.val then unpack v ⟨n.val % 4, by omega⟩ else b.byte n := by
  simp [writeLanes]

/-- Reading back the register just written (R82, R85). -/
theorem pack_writeLanes (b : Block) (i : Fin 4) (v : Word) : pack (writeLanes b i v) i = v := by
  fin_cases i <;> simpa [pack] using joinBytes_unpack v

/-! ### The register map (R39) -/

theorem regAt_offset (reg : Reg) : regAt reg.offset = some reg := by
  cases reg with
  | cmd => rfl
  | status => rfl
  | err => rfl
  | result => rfl
  | key i => fin_cases i <;> rfl
  | din i => fin_cases i <;> rfl
  | dout i => fin_cases i <;> rfl
  | st c => fin_cases c <;> rfl
  | rk c => fin_cases c <;> rfl

theorem memRead_offset (reg : Reg) (s : State) : memRead reg.offset s = readReg reg s := by
  simp [memRead, regAt_offset]

/-! ### Host accesses -/

theorem accessRefusal_idle {off : Offset} {s : State} (h4 : off.toNat % 4 = 0) (hb : s.busy = false)
    (isRead : Bool) : accessRefusal off 4 isRead s = none := by
  simp [accessRefusal, h4, hb]

theorem perform_read_idle {off : Offset} {s : State} (h4 : off.toNat % 4 = 0) (hb : s.busy = false)
    (claim : Option Word) : perform (.read off 4 claim) s = .next (observe off claim s) := by
  simp [perform, accessRefusal_idle h4 hb]

theorem perform_write_idle {off : Offset} {s : State} (h4 : off.toNat % 4 = 0) (hb : s.busy = false)
    (v : Word) : perform (.write off 4 v) s = memWrite off v s := by
  simp [perform, accessRefusal_idle h4 hb]

theorem memWrite_cmd (w : Word) (s : State) : memWrite (Reg.offset .cmd) w s = runCommand w s := rfl

theorem runCommand_of_decode {w : Word} {i : Instr} (h : decode w = .ok i) (s : State) :
    runCommand w s = exec i { s with cmd := w } := by
  simp [runCommand, h]

theorem runCommand_of_reject {w : Word} {r : DecodeReject} (h : decode w = .error r) (s : State) :
    runCommand w s = .next (raise .illegalCommand 0 (opField w) { s with cmd := w }) := by
  simp [runCommand, h, fail]

/-! ### The step -/

theorem step_nil {s : State} (h : s.pending = []) : step s = .next s := by
  simp [step, h]

theorem step_cons {s : State} {a : HostAction} {rest : List HostAction} (h : s.pending = a :: rest) :
    step s = perform a { s with pending := rest } := by
  simp [step, h]

theorem step_read_idle {s : State} {off : Offset} {claim : Option Word} {rest : List HostAction}
    (hp : s.pending = .read off 4 claim :: rest) (hb : s.busy = false) (h4 : off.toNat % 4 = 0) :
    step s = .next (observe off claim { s with pending := rest }) := by
  rw [step_cons hp]
  exact perform_read_idle (s := { s with pending := rest }) h4 hb claim

theorem step_write_idle {s : State} {off : Offset} {v : Word} {rest : List HostAction}
    (hp : s.pending = .write off 4 v :: rest) (hb : s.busy = false) (h4 : off.toNat % 4 = 0) :
    step s = memWrite off v { s with pending := rest } := by
  rw [step_cons hp]
  exact perform_write_idle (s := { s with pending := rest }) h4 hb v

theorem step_write_cmd {s : State} {w : Word} {rest : List HostAction}
    (hp : s.pending = .write (Reg.offset .cmd) 4 w :: rest) (hb : s.busy = false) :
    step s = runCommand w { s with pending := rest } := by
  rw [step_write_idle hp hb (by decide), memWrite_cmd]

end Sys2Proof.Machine
end

