-- ==== Sys2Proof/Laws/Registers.lean ====
section
/-!
SUPPORT. Sys2Proof/Laws/Registers.lean: the register words as numbers and by byte lane (R41 to R48, R82), and
which offsets are which register's (R39).
-/
namespace Sys2Proof.Machine

/-! ### Words as numbers -/

theorem errFlag_eq (s : State) : errFlag s = !decide (s.errKind = 0) := by
  unfold errFlag
  by_cases h : s.errKind = 0
  · rw [h]; rfl
  · rw [decide_eq_false h]; simpa using h

theorem flags_toNat (busy err ks : Bool) :
    (0#29 ++ BitVec.ofBool busy ++ BitVec.ofBool err ++ BitVec.ofBool ks).toNat
      = (if ks then 1 else 0) + (if err then 2 else 0) + (if busy then 4 else 0) := by
  cases busy <;> cases err <;> cases ks <;> rfl

theorem statusWord_toNat (s : State) : (statusWord s).toNat =
    (if s.ksValid then 1 else 0) + (if s.errKind = 0 then 0 else 2) + (if s.busy then 4 else 0) := by
  rw [statusWord, flags_toNat, errFlag_eq]
  by_cases h : s.errKind = 0 <;> simp [h]

theorem statusWord_busy (s : State) : (statusWord s).getLsbD 2 = s.busy := by
  unfold statusWord
  cases s.busy <;> cases errFlag s <;> cases s.ksValid <;> rfl

theorem errWord_toNat (s : State) : (errWord s).toNat =
    s.errKind.toNat + 2 ^ 8 * s.errVal.toNat + 2 ^ 16 * s.errOp.toNat := by
  have h1 := s.errKind.isLt
  have h2 := s.errVal.isLt
  have h3 := s.errOp.isLt
  simp only [errWord, BitVec.toNat_append]
  rw [← Nat.shiftLeft_add_eq_or_of_lt h1, ← Nat.shiftLeft_add_eq_or_of_lt (i := 4) (by decide),
    ← Nat.shiftLeft_add_eq_or_of_lt h2, ← Nat.shiftLeft_add_eq_or_of_lt (i := 3) (by decide),
    ← Nat.shiftLeft_add_eq_or_of_lt h3]
  simp only [Nat.shiftLeft_eq, BitVec.toNat_ofNat]
  omega

theorem resultWord_toNat (s : State) : (resultWord s).toNat = s.result.toNat := by
  simp only [resultWord, BitVec.toNat_append, BitVec.toNat_ofNat]
  simp

/-! ### Byte lanes (R82) -/

/-- Byte `j` of a joined word. -/
theorem joinBytes_lane (f : Fin 4 → Byte) (j : Fin 4) :
    (joinBytes (f 3) (f 2) (f 1) (f 0)).toNat / 2 ^ (8 * j.val) % 2 ^ 8 = (f j).toNat := by
  have h0 := (f 0).isLt
  have h1 := (f 1).isLt
  have h2 := (f 2).isLt
  have h3 := (f 3).isLt
  rw [joinBytes_toNat]
  fin_cases j <;> simp <;> omega

theorem pack_lane (b : Block) (i j : Fin 4) :
    (pack b i).toNat / 2 ^ (8 * j.val) % 2 ^ 8 = (b.byte ⟨4 * i + j, by omega⟩).toNat :=
  joinBytes_lane (fun j => b.byte ⟨4 * i + j, by omega⟩) j

theorem stateColumnWord_lane (m : StateMatrix) (c r : Fin 4) :
    (stateColumnWord m c).toNat / 2 ^ (8 * r.val) % 2 ^ 8 = (m.byte r c).toNat :=
  joinBytes_lane (fun r => m.byte r c) r

theorem scheduleColumnWord_lane (k : Schedule) (c : Fin 44) (r : Fin 4) :
    (scheduleColumnWord k c).toNat / 2 ^ (8 * r.val) % 2 ^ 8 = (k.byte r c).toNat :=
  joinBytes_lane (fun r => k.byte r c) r

/-! ### Offsets (R39) -/

theorem offset_toNat (reg : Reg) : reg.offset.toNat =
    match reg with
    | .cmd => 0x000
    | .status => 0x004
    | .err => 0x008
    | .result => 0x00C
    | .key i => 0x010 + 4 * i.val
    | .din i => 0x020 + 4 * i.val
    | .dout i => 0x030 + 4 * i.val
    | .st c => 0x040 + 4 * c.val
    | .rk c => 0x100 + 4 * c.val := by
  cases reg <;> simp [Reg.offset] <;> omega

theorem regAt_of_toNat {off : Offset} {reg : Reg} (h : off.toNat = reg.offset.toNat) :
    regAt off = some reg := by
  rw [BitVec.eq_of_toNat_eq h, regAt_offset]

theorem offset_of_regAt {off : Offset} {reg : Reg} (h : regAt off = some reg) : reg.offset = off := by
  apply BitVec.eq_of_toNat_eq
  unfold regAt at h
  split_ifs at h <;> cases h <;> rw [offset_toNat] <;> first | omega | (simp only []; omega)

theorem regAt_unmapped {off : Offset} (h : (0x050 ≤ off.toNat ∧ off.toNat < 0x100) ∨ 0x1B0 ≤ off.toNat) :
    regAt off = none := by
  unfold regAt
  split_ifs <;> first | rfl | omega

theorem memRead_of_toNat {off : Offset} {reg : Reg} (h : off.toNat = reg.offset.toNat) (s : State) :
    memRead off s = readReg reg s := by
  simp [memRead, regAt_of_toNat h]

/-- A read does not depend on the accesses still pending. -/
@[simp] theorem memRead_pending (off : Offset) (s : State) (p : List HostAction) :
    memRead off { s with pending := p } = memRead off s := rfl

end Sys2Proof.Machine
end

