-- ==== Sys2Proof/Laws/Commands.lean ====
section
/-!
SUPPORT. Sys2Proof/Laws/Commands.lean: everything a command can do, once: it raises, and then only ERR is
written, or it succeeds, and then RK and KS_VALID are written by EXPAND_KEY alone (R36, R406, R407).
-/
namespace Sys2Proof.Machine

/-- The error a command raises: which command, which kind, which value (R400). -/
def Raises (i : Instr) (kind : ErrorKind) (val : Nat) : Prop :=
  (kind = .invalidKeyLength ∧ 16 < val ∧ i = .expandKey val)
  ∨ (kind = .invalidBlockLength ∧ val ≠ 16 ∧ (i = .encrypt val ∨ i = .decrypt val ∨ i = .loadState val))
  ∨ (kind = .noKeySchedule ∧ val = 0)
  ∨ (kind = .invalidRoundIndex ∧ 10 < val ∧ i = .addRoundKey val)

/-- What a command that succeeds leaves alone, `t` being the state before ERR is cleared. -/
def Succeeds (i : Instr) (s t : State) : Prop :=
  t = { s with dout := t.dout, st := t.st, rk := t.rk, ksValid := t.ksValid, result := t.result }
  ∧ ((t.rk = s.rk ∧ t.ksValid = s.ksValid)
    ∨ ∃ len, len ≤ 16 ∧ i = .expandKey len ∧ t.rk = keyExpansion s.key len ∧ t.ksValid = true)

theorem exec_encrypt_of_valid {s : State} (h : s.ksValid = true) :
    exec (.encrypt 16) s = finishBlock (cipher (load s.din) s.rk) s :=
  requireKeySchedule_of_valid h _ _

theorem exec_decrypt_of_valid {s : State} (h : s.ksValid = true) :
    exec (.decrypt 16) s = finishBlock (invCipher (load s.din) s.rk) s :=
  requireKeySchedule_of_valid h _ _

theorem exec_addRoundKey_of_valid {s : State} (h : s.ksValid = true) {k : Nat} (hk : k < 11) :
    exec (.addRoundKey k) s = replaceState (addRoundKey s.st s.rk ⟨k, hk⟩) s := by
  simp only [exec, execAddRoundKey, requireRoundIndex_of_lt hk, requireKeySchedule_of_valid h]

theorem exec_addRoundKey_of_invalid {s : State} (h : s.ksValid = false) {k : Nat} (hk : k < 11) :
    exec (.addRoundKey k) s = .next (raise .noKeySchedule 0 opAddRoundKey s) := by
  simp only [exec, execAddRoundKey, requireRoundIndex_of_lt hk, requireKeySchedule_of_invalid h]

theorem exec_addRoundKey_of_ge {k : Nat} (hk : 10 < k) (s : State) :
    exec (.addRoundKey k) s = .next (raise .invalidRoundIndex k opAddRoundKey s) := by
  simp only [exec, execAddRoundKey, requireRoundIndex_of_ge hk]

theorem exec_expandKey_of_le {len : Nat} (h : len ≤ 16) (s : State) :
    exec (.expandKey len) s = complete { s with rk := keyExpansion s.key len, ksValid := true } :=
  requireKeyLength_of_le h _ _ _

theorem exec_expandKey_of_gt {len : Nat} (h : 16 < len) (s : State) :
    exec (.expandKey len) s = .next (raise .invalidKeyLength len opExpandKey s) :=
  requireKeyLength_of_gt h _ _ _

theorem exec_encrypt_of_ne {len : Nat} (h : len ≠ 16) (s : State) :
    exec (.encrypt len) s = .next (raise .invalidBlockLength len opEncrypt s) :=
  requireBlockLength_of_ne h _ _ _

theorem exec_decrypt_of_ne {len : Nat} (h : len ≠ 16) (s : State) :
    exec (.decrypt len) s = .next (raise .invalidBlockLength len opDecrypt s) :=
  requireBlockLength_of_ne h _ _ _

theorem exec_loadState_of_ne {len : Nat} (h : len ≠ 16) (s : State) :
    exec (.loadState len) s = .next (raise .invalidBlockLength len opLoadState s) :=
  requireBlockLength_of_ne h _ _ _

theorem exec_encrypt_of_invalid {s : State} (h : s.ksValid = false) :
    exec (.encrypt 16) s = .next (raise .noKeySchedule 0 opEncrypt s) :=
  requireKeySchedule_of_invalid h _ _

theorem exec_decrypt_of_invalid {s : State} (h : s.ksValid = false) :
    exec (.decrypt 16) s = .next (raise .noKeySchedule 0 opDecrypt s) :=
  requireKeySchedule_of_invalid h _ _

/-- Everything a command can do. -/
theorem exec_cases (i : Instr) (s : State) :
    (∃ kind val, exec i s = .next (raise kind val (opField (encode i)) s) ∧ Raises i kind val)
    ∨ ∃ t, exec i s = .next (succeed t) ∧ Succeeds i s t := by
  have blocked : ∀ op, ∀ t : State,
      t = { s with dout := t.dout, st := t.st, rk := t.rk, ksValid := t.ksValid, result := t.result } →
      t.rk = s.rk → t.ksValid = s.ksValid → Succeeds op s t := fun _ _ h hr hk => ⟨h, .inl ⟨hr, hk⟩⟩
  cases i with
  | expandKey len =>
    rcases Nat.lt_or_ge 16 len with h | h
    · exact .inl ⟨_, _, by rw [exec_expandKey_of_gt h, encode, opField_commandWord], .inl ⟨rfl, h, rfl⟩⟩
    · exact .inr ⟨_, exec_expandKey_of_le h s, rfl, .inr ⟨len, h, rfl, rfl, rfl⟩⟩
  | loadState len =>
    by_cases h : len = 16
    · subst h
      exact .inr ⟨_, rfl, blocked _ _ rfl rfl rfl⟩
    · refine .inl ⟨_, len, ?_, .inr (.inl ⟨rfl, h, by simp⟩)⟩
      rw [encode, opField_commandWord]
      exact requireBlockLength_of_ne h _ _ _
  | encrypt len =>
    by_cases h : len = 16
    · subst h
      cases hk : s.ksValid with
      | true => exact .inr ⟨_, exec_encrypt_of_valid hk, blocked _ _ rfl rfl rfl⟩
      | false =>
        refine .inl ⟨_, 0, ?_, .inr (.inr (.inl ⟨rfl, rfl⟩))⟩
        rw [encode, opField_commandWord]
        exact requireKeySchedule_of_invalid hk _ _
    · refine .inl ⟨_, len, ?_, .inr (.inl ⟨rfl, h, by simp⟩)⟩
      rw [encode, opField_commandWord]
      exact requireBlockLength_of_ne h _ _ _
  | decrypt len =>
    by_cases h : len = 16
    · subst h
      cases hk : s.ksValid with
      | true => exact .inr ⟨_, exec_decrypt_of_valid hk, blocked _ _ rfl rfl rfl⟩
      | false =>
        refine .inl ⟨_, 0, ?_, .inr (.inr (.inl ⟨rfl, rfl⟩))⟩
        rw [encode, opField_commandWord]
        exact requireKeySchedule_of_invalid hk _ _
    · refine .inl ⟨_, len, ?_, .inr (.inl ⟨rfl, h, by simp⟩)⟩
      rw [encode, opField_commandWord]
      exact requireBlockLength_of_ne h _ _ _
  | addRoundKey k =>
    rcases Nat.lt_or_ge k 11 with h | h
    · cases hk : s.ksValid with
      | true => exact .inr ⟨_, exec_addRoundKey_of_valid hk h, blocked _ _ rfl rfl rfl⟩
      | false =>
        refine .inl ⟨_, 0, ?_, .inr (.inr (.inl ⟨rfl, rfl⟩))⟩
        rw [encode, opField_commandWord]
        exact exec_addRoundKey_of_invalid hk h
    · refine .inl ⟨_, k, ?_, .inr (.inr (.inr ⟨rfl, h, rfl⟩))⟩
      rw [encode, opField_commandWord]
      exact exec_addRoundKey_of_ge h s
  | nop => exact .inr ⟨_, rfl, blocked _ _ rfl rfl rfl⟩
  | storeState => exact .inr ⟨_, rfl, blocked _ _ rfl rfl rfl⟩
  | subBytes => exact .inr ⟨_, rfl, blocked _ _ rfl rfl rfl⟩
  | invSubBytes => exact .inr ⟨_, rfl, blocked _ _ rfl rfl rfl⟩
  | shiftRows => exact .inr ⟨_, rfl, blocked _ _ rfl rfl rfl⟩
  | invShiftRows => exact .inr ⟨_, rfl, blocked _ _ rfl rfl rfl⟩
  | mixColumns => exact .inr ⟨_, rfl, blocked _ _ rfl rfl rfl⟩
  | invMixColumns => exact .inr ⟨_, rfl, blocked _ _ rfl rfl rfl⟩
  | gfMul02 arg => exact .inr ⟨_, rfl, blocked _ _ rfl rfl rfl⟩
  | gfMul03 arg => exact .inr ⟨_, rfl, blocked _ _ rfl rfl rfl⟩
  | gfMul09 arg => exact .inr ⟨_, rfl, blocked _ _ rfl rfl rfl⟩
  | gfMul0b arg => exact .inr ⟨_, rfl, blocked _ _ rfl rfl rfl⟩
  | gfMul0d arg => exact .inr ⟨_, rfl, blocked _ _ rfl rfl rfl⟩
  | gfMul0e arg => exact .inr ⟨_, rfl, blocked _ _ rfl rfl rfl⟩
  | sbox arg => exact .inr ⟨_, rfl, blocked _ _ rfl rfl rfl⟩
  | invSbox arg => exact .inr ⟨_, rfl, blocked _ _ rfl rfl rfl⟩

end Sys2Proof.Machine
end

