-- ==== Sys2Proof/Laws/PerInstr.lean ====
section
/-!
SUPPORT. Sys2Proof/Laws/PerInstr.lean: the family EncodesInItsRow, one lemma per command: the command's word is
selected by a row of R124, and its reserved fields are 0 (R121, R123).
-/
namespace Sys2Proof.Laws.EncodesInItsRow

/-- A well-formed command's word is selected by a row of R124, its reserved fields are 0, and the row builds the
command back. -/
def Statement (i : Instr) : Prop :=
  i.wellFormed = true → reservedClear (encode i) = true
    ∧ ∃ row ∈ opcodeRows, row.selects (encode i) = true ∧ row.build (encode i) = i

/-- Every command word keeps the reserved fields at 0 (R121). -/
theorem reservedClear_commandWord (idx : BitVec 4) (len : BitVec 5) (arg op : Byte) :
    reservedClear (commandWord idx len arg op) = true := by
  obtain ⟨h28, -, h21, -⟩ := commandWord_fields idx len arg op
  simp [reservedClear, h28, h21]

/-- The row at a place of R124 selects a word when its pattern agrees with the word field by field. -/
theorem of_row {i : Instr} (n : Nat) (hn : n < opcodeRows.length)
    (hs : opcodeRows[n].selects (encode i) = true) (hb : opcodeRows[n].build (encode i) = i)
    (hr : reservedClear (encode i) = true) : Statement i :=
  fun _ => ⟨hr, opcodeRows[n], List.getElem_mem hn, hs, hb⟩

theorem nop : Statement .nop :=
  of_row 0 (by decide) (by decide) rfl (by decide)

theorem expandKey (len : Nat) : Statement (.expandKey len) := by
  intro h
  have hk := of_decide_eq_true h
  refine of_row 1 (by decide) ?_ ?_ (reservedClear_commandWord ..) h
  · simp [OpcodeRow.selects, opcodeRows, stateRows, and_eq_iff_fields, encode, commandWord_fields, opExpandKey]
  · simp [opcodeRows, stateRows, encode, Nat.mod_eq_of_lt hk]

theorem encrypt (len : Nat) : Statement (.encrypt len) := by
  intro h
  have hk := of_decide_eq_true h
  refine of_row 2 (by decide) ?_ ?_ (reservedClear_commandWord ..) h
  · simp [OpcodeRow.selects, opcodeRows, stateRows, and_eq_iff_fields, encode, commandWord_fields, opEncrypt]
  · simp [opcodeRows, stateRows, encode, Nat.mod_eq_of_lt hk]

theorem decrypt (len : Nat) : Statement (.decrypt len) := by
  intro h
  have hk := of_decide_eq_true h
  refine of_row 3 (by decide) ?_ ?_ (reservedClear_commandWord ..) h
  · simp [OpcodeRow.selects, opcodeRows, stateRows, and_eq_iff_fields, encode, commandWord_fields, opDecrypt]
  · simp [opcodeRows, stateRows, encode, Nat.mod_eq_of_lt hk]

theorem loadState (len : Nat) : Statement (.loadState len) := by
  intro h
  have hk := of_decide_eq_true h
  refine of_row 4 (by decide) ?_ ?_ (reservedClear_commandWord ..) h
  · simp [OpcodeRow.selects, opcodeRows, stateRows, and_eq_iff_fields, encode, commandWord_fields, opLoadState]
  · simp [opcodeRows, stateRows, encode, Nat.mod_eq_of_lt hk]

theorem storeState : Statement .storeState :=
  of_row 5 (by decide) (by decide) rfl (by decide)

theorem subBytes : Statement .subBytes :=
  of_row 6 (by decide) (by decide) rfl (by decide)

theorem invSubBytes : Statement .invSubBytes :=
  of_row 7 (by decide) (by decide) rfl (by decide)

theorem shiftRows : Statement .shiftRows :=
  of_row 8 (by decide) (by decide) rfl (by decide)

theorem invShiftRows : Statement .invShiftRows :=
  of_row 9 (by decide) (by decide) rfl (by decide)

theorem mixColumns : Statement .mixColumns :=
  of_row 10 (by decide) (by decide) rfl (by decide)

theorem invMixColumns : Statement .invMixColumns :=
  of_row 11 (by decide) (by decide) rfl (by decide)

theorem addRoundKey (k : Nat) : Statement (.addRoundKey k) := by
  intro h
  have hk := of_decide_eq_true h
  refine of_row 12 (by decide) ?_ ?_ (reservedClear_commandWord ..) h
  · simp [OpcodeRow.selects, opcodeRows, stateRows, and_eq_iff_fields, encode, commandWord_fields, opAddRoundKey]
  · simp [opcodeRows, stateRows, encode, Nat.mod_eq_of_lt hk]

theorem gfMul02 (arg : Byte) : Statement (.gfMul02 arg) := by
  refine of_row 13 (by decide) ?_ ?_ (reservedClear_commandWord ..)
  · simp [OpcodeRow.selects, opcodeRows, stateRows, byteRows, and_eq_iff_fields, encode, commandWord_fields,
      opGfMul]
  · simp [opcodeRows, stateRows, byteRows, encode]

theorem gfMul03 (arg : Byte) : Statement (.gfMul03 arg) := by
  refine of_row 14 (by decide) ?_ ?_ (reservedClear_commandWord ..)
  · simp [OpcodeRow.selects, opcodeRows, stateRows, byteRows, and_eq_iff_fields, encode, commandWord_fields,
      opGfMul]
  · simp [opcodeRows, stateRows, byteRows, encode]

theorem gfMul09 (arg : Byte) : Statement (.gfMul09 arg) := by
  refine of_row 15 (by decide) ?_ ?_ (reservedClear_commandWord ..)
  · simp [OpcodeRow.selects, opcodeRows, stateRows, byteRows, and_eq_iff_fields, encode, commandWord_fields,
      opGfMul]
  · simp [opcodeRows, stateRows, byteRows, encode]

theorem gfMul0b (arg : Byte) : Statement (.gfMul0b arg) := by
  refine of_row 16 (by decide) ?_ ?_ (reservedClear_commandWord ..)
  · simp [OpcodeRow.selects, opcodeRows, stateRows, byteRows, and_eq_iff_fields, encode, commandWord_fields,
      opGfMul]
  · simp [opcodeRows, stateRows, byteRows, encode]

theorem gfMul0d (arg : Byte) : Statement (.gfMul0d arg) := by
  refine of_row 17 (by decide) ?_ ?_ (reservedClear_commandWord ..)
  · simp [OpcodeRow.selects, opcodeRows, stateRows, byteRows, and_eq_iff_fields, encode, commandWord_fields,
      opGfMul]
  · simp [opcodeRows, stateRows, byteRows, encode]

theorem gfMul0e (arg : Byte) : Statement (.gfMul0e arg) := by
  refine of_row 18 (by decide) ?_ ?_ (reservedClear_commandWord ..)
  · simp [OpcodeRow.selects, opcodeRows, stateRows, byteRows, and_eq_iff_fields, encode, commandWord_fields,
      opGfMul]
  · simp [opcodeRows, stateRows, byteRows, encode]

theorem sbox (arg : Byte) : Statement (.sbox arg) := by
  refine of_row 19 (by decide) ?_ ?_ (reservedClear_commandWord ..)
  · simp [OpcodeRow.selects, opcodeRows, stateRows, byteRows, and_eq_iff_fields, encode, commandWord_fields,
      opSbox]
  · simp [opcodeRows, stateRows, byteRows, encode]

theorem invSbox (arg : Byte) : Statement (.invSbox arg) := by
  refine of_row 20 (by decide) ?_ ?_ (reservedClear_commandWord ..)
  · simp [OpcodeRow.selects, opcodeRows, stateRows, byteRows, and_eq_iff_fields, encode, commandWord_fields,
      opInvSbox]
  · simp [opcodeRows, stateRows, byteRows, encode]

end Sys2Proof.Laws.EncodesInItsRow
end

