-- ==== Sys2Proof/Laws/Runs.lean ====
section
/-!
SUPPORT. Sys2Proof/Laws/Runs.lean: a run of several steps, and what a host write can do, once (R85, R88).
-/
namespace Sys2Proof.Machine

/-- Everything a host write in the contract can do. -/
theorem memWrite_cases (off : Offset) (v : Word) (s : State) :
    memWrite off v s = .next s ∨ (∃ k, memWrite off v s = .next { s with key := k })
    ∨ (∃ d, memWrite off v s = .next { s with din := d })
    ∨ (off = Reg.offset .cmd ∧ memWrite off v s = runCommand v s) := by
  unfold memWrite
  split
  case h_3 h => exact .inr (.inr (.inr ⟨(offset_of_regAt h).symm, rfl⟩))
  case h_1 => exact .inr (.inl ⟨_, rfl⟩)
  case h_2 => exact .inr (.inr (.inl ⟨_, rfl⟩))
  all_goals exact .inl rfl

/-- `t` is reached from `s` by zero or more steps. -/
inductive Reaches : State → State → Prop
  | refl (s : State) : Reaches s s
  | head {s t u : State} (h : step s = .next t) (h' : Reaches t u) : Reaches s u

theorem Reaches.one {s t : State} (h : step s = .next t) : Reaches s t := .head h (.refl t)

theorem Reaches.trans {s t u : State} (h : Reaches s t) (h' : Reaches t u) : Reaches s u := by
  induction h with
  | refl => exact h'
  | head hs _ ih => exact .head hs (ih h')

theorem run_succ (k : Nat) {s t : State} (h : step s = .next t) :
    Sys2Proof.core.run (k + 1) s = Sys2Proof.core.run k t := by
  have hs : Sys2Proof.core.step s = .next t := h
  simp only [Host.Core.run, hs]

theorem Reaches.run {s t : State} (h : Reaches s t) : ∃ k, Sys2Proof.core.run k s = .next t := by
  induction h with
  | refl => exact ⟨0, rfl⟩
  | head hs _ ih =>
    obtain ⟨k, hk⟩ := ih
    exact ⟨k + 1, by rw [run_succ k hs, hk]⟩

end Sys2Proof.Machine
end

