-- ==== Sys2Proof/Tests/Slice0.lean ====
section
/-!
SUPPORT. Sys2Proof/Tests/Slice0.lean: the WellFormed smoke tests, decoding of words written out from R124's pattern
strings, one-step tests with the values of spec file 95, and a witness for every statement with hypotheses.
-/
namespace Sys2Proof.Tests
open Sys2Proof Sys2Proof.Machine

/-! ### WellFormed: an ill-formed term for each check -/

theorem test_lenFits_refuses_32 : (Instr.expandKey 32).wellFormed = false
    ∧ (Instr.encrypt 32).wellFormed = false ∧ (Instr.decrypt 33).wellFormed = false
    ∧ (Instr.loadState 64).wellFormed = false ∧ (Instr.expandKey 31).wellFormed = true := by decide

theorem test_idxFits_refuses_16 : (Instr.addRoundKey 16).wellFormed = false
    ∧ (Instr.addRoundKey 15).wellFormed = true := by decide

theorem test_setkey_refuses_17_bytes : (Line.setkey (List.replicate 17 0)).wellFormed = false
    ∧ (Line.setkey (List.replicate 16 0)).wellFormed = true
    ∧ (Line.command (.encrypt 32)).wellFormed = false := by decide

/-! ### Decode: every command's word written out bit by bit from R124's pattern strings -/

theorem test_decode_state_commands :
    [ 0b0000_0000_0000_0000_0000_0000_0000_0000#32, 0b0000_0000_0001_0000_0000_0000_0000_0001#32,
      0b0000_0000_0001_0000_0000_0000_0000_0010#32, 0b0000_0000_0000_0101_0000_0000_0000_0011#32,
      0b0000_0000_0001_1111_0000_0000_0001_0000#32, 0b0000_0000_0000_0000_0000_0000_0001_0001#32,
      0b0000_0000_0000_0000_0000_0000_0001_0010#32, 0b0000_0000_0000_0000_0000_0000_0001_0011#32,
      0b0000_0000_0000_0000_0000_0000_0001_0100#32, 0b0000_0000_0000_0000_0000_0000_0001_0101#32,
      0b0000_0000_0000_0000_0000_0000_0001_0110#32, 0b0000_0000_0000_0000_0000_0000_0001_0111#32,
      0b0000_1010_0000_0000_0000_0000_0001_1000#32 ].map (fun w => (decode w).toOption)
    = [ some .nop, some (.expandKey 16), some (.encrypt 16), some (.decrypt 5), some (.loadState 31),
        some .storeState, some .subBytes, some .invSubBytes, some .shiftRows, some .invShiftRows,
        some .mixColumns, some .invMixColumns, some (.addRoundKey 10) ] := by decide

theorem test_decode_byte_commands :
    [ 0b0000_0010_0000_0000_0101_0111_0010_0000#32, 0b0000_0011_0000_0000_0101_0111_0010_0000#32,
      0b0000_1001_0000_0000_0101_0111_0010_0000#32, 0b0000_1011_0000_0000_0101_0111_0010_0000#32,
      0b0000_1101_0000_0000_0101_0111_0010_0000#32, 0b0000_1110_0000_0000_0101_0111_0010_0000#32,
      0b0000_0000_0000_0000_0101_0011_0010_0001#32, 0b0000_0000_0000_0000_1110_1101_0010_0010#32 ].map
      (fun w => (decode w).toOption)
    = [ some (.gfMul02 0x57), some (.gfMul03 0x57), some (.gfMul09 0x57), some (.gfMul0b 0x57),
        some (.gfMul0d 0x57), some (.gfMul0e 0x57), some (.sbox 0x53), some (.invSbox 0xED) ] := by decide

/-- R126, and the words of ER-4 to ER-9: each with the case that rejects it. -/
theorem test_decode_rejects_by_name :
    [0x04005720#32, 0x00000100#32, 0x00100012#32, 0x00800001#32, 0x10000000#32, 0x000000FF#32].map decode
    = [ .error .undefinedConstant, .error .unusedField, .error .unusedField, .error .reservedBits,
        .error .reservedBits, .error .undefinedOp ] := by decide

/-- R129: the words its table writes, `len=` left out being 16. -/
theorem test_encode_writes_the_syntax_table :
    [encryptDefault, decryptDefault, loadStateDefault, .expandKey 3, .addRoundKey 12, .gfMul0e 0x57].map encode
    = [0x00100002#32, 0x00100003#32, 0x00100010#32, 0x00030001#32, 0x0C000018#32, 0x0E005720#32] := by decide

theorem test_decodeTableWord : decodeTableWord 32 0x00000018 = some (.addRoundKey 0)
    ∧ decodeTableWord 8 0x17 = some .invMixColumns ∧ decodeTableWord 32 0x00000004 = none := by decide

/-! ### States the tests start from -/

/-- The bytes 00 01 .. 0f. -/
def countBlock : Block := .ofBytes fun i => BitVec.ofNat 8 i

/-- The KAT key, ASCII "0123456789ABCDEF" (spec file 95). -/
def katKey : Block :=
  #v[0x30, 0x31, 0x32, 0x33, 0x34, 0x35, 0x36, 0x37, 0x38, 0x39, 0x41, 0x42, 0x43, 0x44, 0x45, 0x46]

/-- A block with one byte replaced. -/
def setByte (b : Block) (i : Fin 16) (v : Byte) : Block := b.set i v

/-- After reset, with the KAT key in KEY and 00 01 .. 0f in DIN. -/
def written : State := { State.reset with key := katKey, din := countBlock }

/-- STATE = S0 as well (R296), and a schedule of the KAT key. -/
def keyed : State := { written with st := load countBlock, rk := keyExpansion katKey 16, ksValid := true }

/-- What an answer's next state reads at an offset. -/
def readAfter (a : Answer) (off : Offset) : Option Word :=
  match a with
  | .next t => some (memRead off t)
  | .fault _ => none
  | .refused _ => none

/-- The words read at some offsets after a word is written to CMD. -/
def afterWord (s : State) (w : Nat) (offs : List Offset) : List (Option Word) :=
  offs.map (readAfter (step (s.withFetchWord 32 w)))

/-! ### Commands, with the values of spec file 95 -/

/-- GF-9 and TB-3: RESULT, ERR and STATUS after each byte command, from reset. -/
theorem test_byte_commands :
    [0x02005720, 0x03005720, 0x09005720, 0x0B005720, 0x0D005720, 0x0E005720, 0x00005321, 0x0000ED22].map
      (fun w => afterWord State.reset w [0x00C, 0x008, 0x004])
    = [0xAE, 0xF9, 0xD9, 0x77, 0x9E, 0x67, 0xED, 0x53].map fun v => [some v, some 0, some 0] := by decide +kernel

/-- GF-1 to GF-6, the rows 80, 8d and ff. -/
theorem test_gf_rows :
    [0x80, 0x8D, 0xFF].map (fun b : Byte => [mul02 b, mul03 b, mul09 b, mul0b b, mul0d b, mul0e b])
    = [ [0x1B, 0x9B, 0xEC, 0xF7, 0xDA, 0x41], [0x01, 0x8C, 0x89, 0x88, 0x8B, 0x07],
        [0xE5, 0x1A, 0x46, 0xA3, 0x97, 0x8D] ] := by decide

/-- GF-7 and GF-8. -/
theorem test_gmul_and_inverse : gmul 0x57 0x13 = 0xFE ∧ gmul 0x57 0x10 = 0x07
    ∧ mul02Inv 0xAE = 0x57 ∧ mul02Inv 0x1B = 0x80 ∧ mul02Inv 0x01 = 0x8D := by decide

/-- TB-1 and TB-2. -/
theorem test_table_entries :
    ([0x00, 0x01, 0x10, 0x53, 0x7F, 0x80, 0xFF] : List Byte).map sbox = [0x63, 0x7C, 0xCA, 0xED, 0xD2, 0xCD, 0x16]
    ∧ ([0x00, 0x52, 0x63, 0x7C, 0xED, 0x16] : List Byte).map invSbox = [0x52, 0x48, 0x00, 0x01, 0x53, 0xFF] := by
  decide

/-- R222: the construction gives the entries of TB-1. -/
theorem test_sbox_construction :
    ([0x00, 0x53, 0xFF] : List Byte).map sboxConstruction = [0x63, 0xED, 0x16] := by decide +kernel

/-- TR-1: ST0 after each unkeyed transform of S0. -/
theorem test_step_mode_transforms :
    [0x12, 0x13, 0x14, 0x15, 0x16, 0x17].map (fun w => afterWord keyed w [0x040])
    = [ [some 0x7B777C63], [some 0xD56A0952], [some 0x0F0A0500], [some 0x070A0D00], [some 0x05000702],
        [some 0x0D080F0A] ] := by decide +kernel

/-- TR-1: ADD_ROUND_KEY 0 and 10 under the KAT key. -/
theorem test_add_round_key : afterWord keyed 0x00000018 [0x040] = [some 0x30303030]
    ∧ afterWord keyed 0x0A000018 [0x040, 0x008] = [some 0x0BE0DD41, some 0] := by decide +kernel

/-- R296 and R297: LOAD_STATE of 00 .. 0f makes ST1 read 0x07060504, STORE_STATE makes DOUT3 0x0F0E0D0C. -/
theorem test_load_and_store_state : afterWord written 0x00100010 [0x044] = [some 0x07060504]
    ∧ afterWord keyed 0x00000011 [0x030, 0x03C] = [some 0x03020100, some 0x0F0E0D0C] := by decide +kernel

/-- KS-1: KS_VALID, RK0, RK4, RK40 and RK43 after EXPAND_KEY of the KAT key. -/
theorem test_expand_key_kat : afterWord written 0x00100001 [0x004, 0x100, 0x110, 0x1A0, 0x1AC]
    = [some 1, some 0x33323130, some 0x29685F2A, some 0x08E2DC41, some 0x52FBEEBE] := by decide +kernel

/-- KS-2 and KS-8: "abc" with a filler byte FF; KS-3: the empty key. -/
theorem test_expand_key_short :
    afterWord { written with key := setByte (setByte (setByte (setByte katKey 0 0x61) 1 0x62) 2 0x63) 3 0xFF } 0x00030001
      [0x100, 0x110, 0x114, 0x1AC] = [some 0x01636261, some 0x7D1F1E1C, some 0x7C1E1F1D, some 0xF078E352]
    ∧ afterWord written 0x00000001 [0x110, 0x114, 0x1A0, 0x1AC]
      = [some 0x7D7D7D7C, some 0x7C7C7C7D, some 0x39CE5D19, some 0xDE7863CB] := by decide +kernel

/-- BC-4: DOUT0..DOUT3 and ST3 after ENCRYPT. -/
theorem test_encrypt_kat : afterWord keyed 0x00100002 [0x030, 0x034, 0x038, 0x03C, 0x04C]
    = [some 0xB52261A5, some 0x33C5C237, some 0x85D3777A, some 0xA5C715EA, some 0xA5C715EA] := by decide +kernel

/-- P1, lines 18 to 26: DECRYPT of the KAT ciphertext. -/
theorem test_decrypt_kat :
    afterWord
      { keyed with
        din := #v[0xA5, 0x61, 0x22, 0xB5, 0x37, 0xC2, 0xC5, 0x33, 0x7A, 0x77, 0xD3, 0x85, 0xEA, 0x15, 0xC7, 0xA5] }
      0x00100003 [0x030, 0x034, 0x038, 0x03C]
    = [some 0x03020100, some 0x07060504, some 0x0B0A0908, some 0x0F0E0D0C] := by decide +kernel

/-! ### Errors: the rows of section 3.6 of spec file 95, as ERR and STATUS -/

/-- ER-1 to ER-9, from reset. -/
theorem test_errors_from_reset :
    [0x00100002, 0x0C000018, 0x00050002, 0x04005720, 0x00000100, 0x00100012, 0x00800001, 0x10000000, 0x000000FF].map
      (fun w => afterWord State.reset w [0x008, 0x004])
    = [0x00020004, 0x00180C05, 0x00020502, 0x00200003, 0x00000003, 0x00120003, 0x00010003, 0x00000003,
        0x00FF0003].map fun e => [some e, some 2] := by decide +kernel

/-- ER-10 to ER-14, with a schedule. -/
theorem test_errors_with_a_schedule :
    [0x00110001, 0x001F0001, 0x00000003, 0x0B000018, 0x00000010].map (fun w => afterWord keyed w [0x008, 0x004])
    = [0x00011101, 0x00011F01, 0x00030002, 0x00180B05, 0x00100002].map fun e => [some e, some 3] := by decide +kernel

/-- ER-15: NOP after an error; RA-4: CMD reads back a word that failed. -/
theorem test_nop_clears_err_and_cmd_reads_back :
    afterWord { keyed with errKind := 1, errVal := 17, errOp := 1 } 0 [0x008, 0x004] = [some 0, some 1]
    ∧ afterWord keyed 0x000000FF [0x000] = [some 0xFF] := by decide +kernel

/-! ### Host accesses and reset -/

/-- RA-2, and R85: an unmapped offset reads 0, KEY1 takes the four bytes of a write and no other. -/
theorem test_reads_and_writes : [0x050, 0x1B0, 0xFFC].map (fun off => memRead off keyed) = [0, 0, 0]
    ∧ readAfter (memWrite 0x014 0xDDCCBBAA written) 0x014 = some 0xDDCCBBAA
    ∧ readAfter (memWrite 0x014 0xDDCCBBAA written) 0x018 = some 0x42413938 := by decide

/-- RA-3: writes to STATUS, DOUT0 and 0x200 change nothing. -/
theorem test_ignored_writes : readAfter (memWrite 0x004 0xFFFFFFFF written) 0x004 = some 0
    ∧ readAfter (memWrite 0x030 0x12345678 written) 0x030 = some 0
    ∧ readAfter (memWrite 0x200 5 written) 0x200 = some 0 := by decide

/-- RA-6 and R458: a byte access, a misaligned one, and a KEY0 read while BUSY = 1 are refused by name. -/
theorem test_refused_accesses : accessRefusal 0x010 1 true written = some .accessWidth
    ∧ accessRefusal 0x012 4 true written = some .misaligned
    ∧ accessRefusal 0x010 4 true { written with busy := true } = some .accessWhileBusy
    ∧ accessRefusal 0x004 4 false { written with busy := true } = some .accessWhileBusy
    ∧ accessRefusal 0x004 4 true { written with busy := true } = none := by decide

/-- R450: a reset step clears KS_VALID and KEY. -/
theorem test_reset_step :
    [0x004, 0x010].map (readAfter (step { keyed with pending := [.reset] })) = [some 0, some 0] := by decide

/-! ### Framing -/

/-- FR-2's PadFinal, and the lengths at the edges of a chunk. -/
theorem test_padFinal :
    padFinal [0x68, 0x65, 0x6C, 0x6C, 0x6F] = [0x68, 0x65, 0x6C, 0x6C, 0x6F, 0, 0, 0, 0, 0, 0, 0, 0, 0, 0, 0x01]
    ∧ padFinal (List.replicate 15 0x41) = List.replicate 15 0x41 ++ [0x01]
    ∧ padFinal (List.replicate 16 0x41) = List.replicate 16 0x41 ∧ chunkCount 0 = 0 ∧ chunkCount 17 = 2 := by decide

/-- FR-13. -/
theorem test_strip : strip [0x41, 0x00, 0x01, 0x00] = [0x41] ∧ strip (List.replicate 16 0x01) = []
    ∧ strip [0x02, 0x01] = [0x02] := by decide

/-- FR-12. -/
theorem test_decrypt_stream_lengths :
    decryptStream (List.replicate 17 0) (blockBytes katKey) = .error ⟨.invalidBlockLength, 1⟩
    ∧ decryptStream (List.replicate 5 0) (blockBytes katKey) = .error ⟨.invalidBlockLength, 5⟩ := by decide

/-- FR-2 and FR-11. -/
theorem test_encrypt_stream_hello :
    encryptStream [0x68, 0x65, 0x6C, 0x6C, 0x6F] (blockBytes katKey) = .ok
      [0x02, 0x6A, 0xBB, 0xFE, 0x28, 0x16, 0xDF, 0x7A, 0x6F, 0x17, 0x5D, 0x9C, 0xFA, 0xD4, 0xB1, 0xF0]
    ∧ encryptStream [0x68, 0x65, 0x6C, 0x6C, 0x6F] [0x6B, 0x65, 0x79] = .ok
      [0xFB, 0x8D, 0x84, 0x6F, 0x85, 0xF1, 0x21, 0x43, 0xD8, 0x2C, 0x44, 0x88, 0x03, 0xB7, 0x1F, 0x04] := by
  decide +kernel

/-! ### Witnesses: the hypotheses of each statement, met together, each clause at a boundary value -/

/-- MatchingWordsSelectTheirRow: a word for each row, its operand field full. -/
theorem witness_MatchingWordsSelectTheirRow :
    (opcodeRows.zip
      [0x00000000#32, 0x001F0001#32, 0x001F0002#32, 0x001F0003#32, 0x001F0010#32, 0x00000011#32, 0x00000012#32,
        0x00000013#32, 0x00000014#32, 0x00000015#32, 0x00000016#32, 0x00000017#32, 0x0F000018#32, 0x0200FF20#32,
        0x0300FF20#32, 0x0900FF20#32, 0x0B00FF20#32, 0x0D00FF20#32, 0x0E00FF20#32, 0x0000FF21#32,
        0x0000FF22#32]).all (fun p => p.2 &&& p.1.mask == p.1.pattern) = true := by decide

/-- UndefinedWordsRaiseIllegalCommand: a word at each end of each case of R126, and a state that is idle with the
write pending; a word that R126 does not list. -/
theorem witness_UndefinedWordsRaiseIllegalCommand :
    (∀ w ∈ [0x04#32, 0x0F#32, 0x19#32, 0x1F#32, 0x23#32, 0xFF#32, 0x00000020#32, 0x04000020#32, 0x0F000020#32,
        0x00200001#32, 0x00800001#32, 0x10000000#32, 0x80000000#32, 0x00000100#32, 0x0000FF01#32, 0x00010012#32,
        0x001F0021#32, 0x01000021#32, 0x0F000000#32],
      selectsNoCommand w)
    ∧ ¬ selectsNoCommand 0x0F000018 ∧ ¬ selectsNoCommand 0x001F0001
    ∧ ({ written with pending := [.write 0x000 4 0x04] } : State).busy = false := by
  refine ⟨?_, ?_, ?_, rfl⟩ <;> simp [selectsNoCommand, opNumber, argNumber, lenNumber, idxNumber]

theorem witness_DecodeOfEncodeIsTheCommand : (Instr.expandKey 31).wellFormed = true
    ∧ (Instr.addRoundKey 15).wellFormed = true ∧ (Instr.gfMul02 0xFF).wellFormed = true := by decide

theorem witness_EncodeOfDecodeIsTheWord : decode 0x0F000018 = .ok (.addRoundKey 15)
    ∧ decode 0x001F0001 = .ok (.expandKey 31) := by decide

theorem witness_NoTwoRowsMatchOneWord :
    ∃ row ∈ opcodeRows, ∃ row' ∈ opcodeRows, row.selects 0x0E00FF20 = true ∧ row'.selects 0x0E00FF20 = true :=
  ⟨opcodeRows[18], by simp [opcodeRows, stateRows, byteRows], opcodeRows[18],
    by simp [opcodeRows, stateRows, byteRows], by decide, by decide⟩

theorem witness_StepRunsTheCommandWrittenToCmd :
    ∃ s : State, s.pending = .write 0x000 4 0x0A000018 :: [.wait] ∧ s.busy = false
      ∧ decode 0x0A000018 = .ok (.addRoundKey 10) :=
  ⟨{ keyed with pending := [.write 0x000 4 0x0A000018, .wait] }, rfl, rfl, by decide⟩

theorem witness_IdleBlockKeepsAllState : keyed.pending = [] := rfl

/-- ResetLeavesTheResetValues: offsets at the ends of the range its last clause speaks of. -/
theorem witness_ResetLeavesTheResetValues :
    ∀ off ∈ [0x000#12, 0x04C#12, 0x0FC#12, 0x1B0#12, 0xFFC#12], off.toNat < 0x100 ∨ 0x1B0 ≤ off.toNat := by simp

theorem witness_ResetStepSetsTheWholeRecord :
    ∃ s : State, s.busy = true ∧ s.pending = .reset :: [.wait] :=
  ⟨{ keyed with busy := true, pending := [.reset, .wait] }, rfl, rfl⟩

/-- HostReadReturnsTheRegister: an offset for each clause, at the ends of its range. -/
theorem witness_HostReadReturnsTheRegister :
    (∀ off ∈ [0x000#12, 0x004#12, 0x008#12, 0x00C#12, 0x010#12, 0x01C#12, 0x020#12, 0x02C#12, 0x030#12, 0x03C#12,
        0x040#12, 0x04C#12, 0x050#12, 0x0FC#12, 0x100#12, 0x1AC#12, 0x1B0#12, 0xFFC#12],
      ({ keyed with pending := [.read off 4 none] } : State).pending = [.read off 4 none]
      ∧ ({ keyed with pending := [.read off 4 none] } : State).busy = false ∧ off.toNat % 4 = 0)
    ∧ keyed.ksValid = true ∧ (0x01C#12).toNat = 0x010 + 4 * (3 : Fin 4) ∧ (0x02C#12).toNat = 0x020 + 4 * (3 : Fin 4)
    ∧ (0x03C#12).toNat = 0x030 + 4 * (3 : Fin 4) ∧ (0x04C#12).toNat = 0x040 + 4 * (3 : Fin 4)
    ∧ (0x1AC#12).toNat = 0x100 + 4 * (43 : Fin 44) := by
  refine ⟨fun off h => ⟨rfl, rfl, ?_⟩, by decide⟩
  revert off
  simp

/-- HostWriteHasItsRegistersEffect: offsets for each clause, a word of each kind for CMD. -/
theorem witness_HostWriteHasItsRegistersEffect :
    (∀ off ∈ [0x000#12, 0x004#12, 0x00C#12, 0x010#12, 0x01C#12, 0x020#12, 0x02C#12, 0x030#12, 0xFFC#12],
      ({ keyed with pending := [.write off 4 0xDDCCBBAA] } : State).busy = false ∧ off.toNat % 4 = 0)
    ∧ decode 0x00000011 = .ok .storeState ∧ decode 0xDDCCBBAA = .error .reservedBits := by
  refine ⟨fun off h => ⟨rfl, ?_⟩, by decide⟩
  revert off
  simp

/-- ReadOnlyAndUnmappedOffsetsIgnoreWrites: the ends of its ranges. -/
theorem witness_ReadOnlyAndUnmappedOffsetsIgnoreWrites :
    (∀ off ∈ [0x004#12, 0x00C#12, 0x030#12, 0x1AC#12, 0xFFC#12],
      off.toNat % 4 = 0 ∧ ((0x004 ≤ off.toNat ∧ off.toNat < 0x010) ∨ 0x030 ≤ off.toNat))
    ∧ (∀ off ∈ [0x050#12, 0x0FC#12, 0x1B0#12, 0xFFC#12],
      off.toNat % 4 = 0 ∧ ((0x050 ≤ off.toNat ∧ off.toNat < 0x100) ∨ 0x1B0 ≤ off.toNat))
    ∧ ({ written with pending := [.write 0x1AC 4 5] } : State).busy = false :=
  ⟨by simp, by simp, rfl⟩

/-- AccessesOutsideTheContractAreRefused: sizes on both sides of 4 at the ends of the window, every misalignment, an
access that breaks both conditions, each pending in an idle state and in a busy one. -/
theorem witness_AccessesOutsideTheContractAreRefused :
    (∀ busy : Bool, ∀ size ∈ [0, 1, 2, 3, 5, 8], size ≠ 4
      ∧ (∃ s : State, s.busy = busy ∧ s.pending = .read 0x000 size none :: [])
      ∧ ∃ s : State, s.busy = busy ∧ s.pending = .write 0xFFC size 5 :: [])
    ∧ (0x000#12).toNat % 4 = 0 ∧ (0xFFC#12).toNat % 4 = 0
    ∧ (∀ busy : Bool, ∀ off ∈ [0x001#12, 0x002#12, 0x003#12, 0xFFD#12, 0xFFF#12], off.toNat % 4 ≠ 0
      ∧ (∃ s : State, s.busy = busy ∧ s.pending = .read off 4 none :: [])
      ∧ (∃ s : State, s.busy = busy ∧ s.pending = .write off 4 5 :: [])
      ∧ ∃ s : State, s.busy = busy ∧ s.pending = .read off 2 none :: []) := by
  have pend (busy : Bool) (a : HostAction) : ∃ s : State, s.busy = busy ∧ s.pending = a :: [] :=
    ⟨{ keyed with busy := busy, pending := [a] }, rfl, rfl⟩
  refine ⟨fun busy size h => ⟨?_, pend .., pend ..⟩, rfl, rfl, fun busy off h => ⟨?_, pend .., pend .., pend ..⟩⟩
  · revert size
    simp
  · revert off
    simp

theorem witness_BusyBlockAnswersOnlyStatusReads :
    (∃ s : State, s.busy = true ∧ s.pending = .write 0x004 4 0 :: [])
    ∧ (∃ s : State, s.busy = true ∧ s.pending = .read 0x000 4 none :: [])
    ∧ (∃ s : State, s.busy = true ∧ s.pending = .read 0x004 4 (some 4) :: [])
    ∧ Reachable { State.reset with pending := [] } :=
  ⟨⟨{ keyed with busy := true, pending := [.write 0x004 4 0] }, rfl, rfl⟩,
    ⟨{ keyed with busy := true, pending := [.read 0x000 4 none] }, rfl, rfl⟩,
    ⟨{ keyed with busy := true, pending := [.read 0x004 4 (some 4)] }, rfl, rfl⟩, .start []⟩

theorem witness_WaitEndsAfterOneRead : ∃ s : State, s.pending = .wait :: [.reset] ∧ s.busy = false :=
  ⟨{ keyed with pending := [.wait, .reset] }, rfl, rfl⟩

/-- KeyAndDinReadBackTheWordWritten: KEY0 and DIN3, the ends of its range. -/
theorem witness_KeyAndDinReadBackTheWordWritten :
    (∃ s t : State, s.pending = .write 0x010 4 0x04030201 :: [] ∧ s.busy = false ∧ step s = .next t)
    ∧ ∃ s t : State, s.pending = .write 0x02C 4 0x04030201 :: [] ∧ s.busy = false ∧ step s = .next t :=
  ⟨⟨{ written with pending := [.write 0x010 4 0x04030201] }, _, rfl, rfl, rfl⟩,
    ⟨{ written with pending := [.write 0x02C 4 0x04030201] }, _, rfl, rfl, rfl⟩⟩

theorem witness_EveryAllowedAccessIsAnswered :
    (HostAction.read 0xFFC 4 none).inContract = true ∧ (HostAction.write 0x000 4 0xFF).inContract = true
    ∧ HostAction.wait.inContract = true ∧ HostAction.reset.inContract = true
    ∧ ({ written with pending := [.write 0x000 4 0xFF] } : State).busy = false := by decide

/-- ErrorsAreReportedInOrder: each clause at both ends of its range, with no schedule held. -/
theorem witness_ErrorsAreReportedInOrder : decode 0x000000FF = .error .undefinedOp
    ∧ (16 < 17 ∧ 17 < 32) ∧ (16 < 31 ∧ 31 < 32) ∧ (0 < 32 ∧ 0 ≠ 16) ∧ (31 < 32 ∧ 31 ≠ 16)
    ∧ (10 < 11 ∧ 11 < 16) ∧ (10 < 15 ∧ 15 < 16) ∧ written.ksValid = false ∧ 10 ≤ 10 := by decide

/-- OnlyExpandKeyWritesTheSchedule: a step that sets KS_VALID, and one taken with KS_VALID already 1. -/
theorem witness_OnlyExpandKeyWritesTheSchedule :
    (∃ s t : State, step s = .next t ∧ s.pending.head? ≠ some .reset ∧ t.ksValid ≠ s.ksValid)
    ∧ ∃ s t : State, step s = .next t ∧ s.pending.head? ≠ some .reset ∧ s.ksValid = true :=
  ⟨⟨written.withFetchWord 32 0x00100001, _, rfl, by decide, by decide⟩,
    ⟨keyed.withFetchWord 32 0, _, rfl, by decide, rfl⟩⟩

theorem inv_keyed : Inv keyed where
  idle := rfl
  errLegal := .inl ⟨rfl, rfl, rfl⟩
  errNamesCmd := fun h => absurd rfl h
  scheduleExpanded := fun _ => ⟨katKey, 16, by decide, rfl⟩

theorem witness_StepKeepsTheInvariant :
    ∃ s t : State, Inv s ∧ s.ksValid = true ∧ step s = .next t ∧ s.pending ≠ [] :=
  ⟨keyed.withFetchWord 32 0x00110001, _,
    ⟨rfl, inv_keyed.errLegal, inv_keyed.errNamesCmd, inv_keyed.scheduleExpanded⟩, rfl, rfl,
    List.cons_ne_nil _ _⟩

theorem witness_RunsStopOnlyAtContractBreaches :
    ∃ s : State, Reachable s ∧ step s = .refused .accessWidth :=
  ⟨_, .start [.read 0x010 1 none], rfl⟩

/-- ExpandKeyWritesThePaddedSchedule: the ends of its two ranges of LEN, and of its columns. -/
theorem witness_ExpandKeyWritesThePaddedSchedule : (16 < 17 ∧ 17 < 32) ∧ (16 < 31 ∧ 31 < 32)
    ∧ 0 ≤ 16 ∧ 16 ≤ 16 ∧ 0 < 40 ∧ 39 < 40 := by decide

/-- KeyBytesBeyondLenAreNotRead: two keys that differ in byte 3 only, with LEN = 3. -/
theorem witness_KeyBytesBeyondLenAreNotRead :
    3 ≤ 16 ∧ (∀ i : Fin 16, i.val < 3 → written.key.byte i = (setByte katKey 3 0xFF).byte i)
    ∧ written.key ≠ setByte katKey 3 0xFF := by decide

/-- PaddedKeysDecideTheSchedule: KS-7's "abc" with LEN = 3 and 61 62 63 01 with LEN = 4, and length 15. -/
theorem witness_PaddedKeysDecideTheSchedule :
    (setByte katKey 3 0x01).byte 3 = 0x01 ∧ 3 < 16 ∧ (setByte katKey 15 0x01).byte 15 = 0x01 ∧ 15 < 16
    ∧ ∀ i : Fin 16, (if i.val < 3 then katKey.byte i else 0x01)
        = if i.val < 4 then (setByte katKey 3 0x01).byte i else 0x01 := by decide

theorem witness_LoadAndStoreMoveTheBlockColumnMajor : (0 < 32 ∧ 0 ≠ 16) ∧ (31 < 32 ∧ 31 ≠ 16) := by decide

theorem witness_AddRoundKeyXorsTheRoundKey : (10 < 11 ∧ 11 < 16) ∧ (10 < 15 ∧ 15 < 16)
    ∧ (0 ≤ 10 ∧ 10 ≤ 10 ∧ written.ksValid = false) ∧ keyed.ksValid = true := by decide

theorem witness_EncryptLeavesTheCipherOfDin : (0 < 32 ∧ 0 ≠ 16) ∧ (31 < 32 ∧ 31 ≠ 16)
    ∧ written.ksValid = false ∧ keyed.ksValid = true := by decide

theorem witness_DecryptLeavesTheInverseCipherOfDin : (15 < 32 ∧ 15 ≠ 16) ∧ (17 < 32 ∧ 17 ≠ 16)
    ∧ written.ksValid = false ∧ keyed.ksValid = true := by decide

theorem witness_BlockCommandsEqualTheirStepModeCommands : keyed.ksValid = true := rfl

theorem witness_DecryptAfterEncryptReturnsDin : keyed.ksValid = true := rfl

/-- BlockCommandsReadOnlyDinAndSchedule: two states that differ in STATE, DOUT and KEY. -/
theorem witness_BlockCommandsReadOnlyDinAndSchedule :
    ∃ s s' : State, s.din = s'.din ∧ s.rk = s'.rk ∧ s.ksValid = s'.ksValid ∧ s.st ≠ s'.st ∧ s.key ≠ s'.key :=
  ⟨keyed, { keyed with st := load katKey, key := countBlock }, rfl, rfl, rfl, by decide, by decide⟩

/-- TransformsActOnTheirLanes: two states equal in lane (0, 0) and in column 0, and unequal. -/
theorem witness_TransformsActOnTheirLanes :
    ∃ m m' : StateMatrix, m.byte 0 0 = m'.byte 0 0 ∧ (∀ r : Fin 4, m.byte r 0 = m'.byte r 0) ∧ m ≠ m' :=
  ⟨load countBlock, load (setByte countBlock 15 0xFF), by decide, by decide, by decide⟩

theorem witness_ProductsAreThoseOfTheField : ∃ t, exec (.gfMul02 0xFF) keyed = .next t ∧ t.result = 0xE5 :=
  ⟨_, rfl, by decide⟩

/-- MultipliersAreLinearAndMul02IsABijection: a byte for each case of the inverse. -/
theorem witness_MultipliersAreLinearAndMul02IsABijection :
    (0xFE : Byte).getLsbD 0 = false ∧ (0x01 : Byte).getLsbD 0 = true := by decide

/-- StreamLengthsAreBlockMultiples: streams whose framing answers. -/
theorem witness_StreamLengthsAreBlockMultiples : encryptStream [] [0x6B, 0x65, 0x79] = .ok []
    ∧ decryptStream [] (blockBytes katKey) = .ok [] := by decide

theorem witness_StreamRoundTripIsStrip : (blockBytes katKey).length ≤ 16 ∧ ([] : List Byte).length ≤ 16 := by decide

theorem witness_StreamFunctionsRaiseOnBadLengths : 16 < (List.replicate 17 (0 : Byte)).length
    ∧ (blockBytes katKey).length ≤ 16 ∧ (List.replicate 17 (0 : Byte)).length % 16 ≠ 0 := by decide

/-- FramingRunsOnTheBlock: an idle state with nothing pending or observed, and lines of each kind. -/
theorem witness_FramingRunsOnTheBlock :
    State.reset.busy = false ∧ State.reset.pending = [] ∧ State.reset.observed = []
    ∧ (∃ lines, encryptStreamLines [0x41] [] = .ok lines) ∧ ∃ lines, decryptStreamLines [] [] = .ok lines :=
  ⟨rfl, rfl, rfl, ⟨_, rfl⟩, ⟨_, rfl⟩⟩

end Sys2Proof.Tests
end

/-! ## Writes that are ignored and reads of no register (R39, R49) -/

namespace Sys2Proof.Machine

/-- The writable registers stand at 0x000 and 0x010..0x02C (R39). -/
theorem writable_iff_offset (reg : Reg) : reg.writable = true ↔
    reg.offset.toNat = 0x000 ∨ (0x010 ≤ reg.offset.toNat ∧ reg.offset.toNat < 0x030) := by
  rw [offset_toNat]
  cases reg with
  | cmd | status | err | result => simp [Reg.writable]
  | key i | din i =>
    simp only [Reg.writable, true_iff]
    omega
  | dout i | st i | rk i =>
    simp only [Reg.writable, Bool.false_eq_true, false_iff]
    omega

theorem memWrite_of_not_writable {off : Offset} (h : ∀ reg, regAt off = some reg → reg.writable = false)
    (v : Word) (s : State) : memWrite off v s = .next s := by
  cases hr : regAt off with
  | none => simp [memWrite, hr]
  | some reg =>
    have hw : reg.writable = false := h reg hr
    cases reg with
    | cmd | key | din => cases hw
    | status | err | result | dout | st | rk => simp [memWrite, hr]

/-- An offset outside the writable registers' ranges holds no writable register, so it ignores a write (R49). -/
theorem memWrite_ignored {off : Offset} (h : (0x004 ≤ off.toNat ∧ off.toNat < 0x010) ∨ 0x030 ≤ off.toNat)
    (v : Word) (s : State) : memWrite off v s = .next s := by
  refine memWrite_of_not_writable (fun reg hr => ?_) v s
  rw [← Bool.not_eq_true, writable_iff_offset, offset_of_regAt hr]
  omega

theorem memRead_unmapped {off : Offset} (h : (0x050 ≤ off.toNat ∧ off.toNat < 0x100) ∨ 0x1B0 ≤ off.toNat)
    (s : State) : memRead off s = 0 := by
  simp [memRead, regAt_unmapped h]

end Sys2Proof.Machine

namespace Sys2Proof
open Machine

/-- Settles O13: the write's step is `memWrite` on the state with the write taken off the list, which such an offset
ignores, and an unmapped offset has no register to read. -/
theorem readOnlyAndUnmappedOffsetsIgnoreWrites : Obligations.ReadOnlyAndUnmappedOffsetsIgnoreWrites := by
  intro s off h4
  constructor
  · intro rest v hp hb hro
    rw [step_write_idle hp hb h4, memWrite_ignored hro]
  · intro hun
    exact memRead_unmapped hun s

end Sys2Proof

/-! ## Writes to KEY, DIN and CMD (R85) -/

namespace Sys2Proof

theorem opField_eq_ofNat (w : Word) : opField w = BitVec.ofNat 8 (opNumber w) := by
  apply BitVec.eq_of_toNat_eq
  simp [opField, opNumber]

namespace Machine

theorem unpack_eq_ofNat (w : Word) (j : Fin 4) : unpack w j = BitVec.ofNat 8 (w.toNat / 2 ^ (8 * j.val)) := by
  apply BitVec.eq_of_toNat_eq
  rw [unpack_toNat, BitVec.toNat_ofNat]

/-- Which byte of the group each lane of the word replaces, as numbers (R82, R85). -/
theorem writeLanes_byte_ofNat (b : Block) (i : Fin 4) (v : Word) (n : Fin 16) :
    (writeLanes b i v).byte n =
      if n.val / 4 = i.val then BitVec.ofNat 8 (v.toNat / 2 ^ (8 * (n.val % 4))) else b.byte n := by
  rw [writeLanes_byte, unpack_eq_ofNat]

theorem memWrite_key {off : Offset} {i : Fin 4} (h : off.toNat = 0x010 + 4 * i) (v : Word) (s : State) :
    memWrite off v s = .next { s with key := writeLanes s.key i v } := by
  have hr : regAt off = some (.key i) := regAt_of_toNat (by rw [h, offset_toNat])
  simp [memWrite, hr]

theorem memWrite_din {off : Offset} {i : Fin 4} (h : off.toNat = 0x020 + 4 * i) (v : Word) (s : State) :
    memWrite off v s = .next { s with din := writeLanes s.din i v } := by
  have hr : regAt off = some (.din i) := regAt_of_toNat (by rw [h, offset_toNat])
  simp [memWrite, hr]

end Machine

open Machine

/-- Settles O12: the write's step is `memWrite` on the state with the write taken off the list. At KEY and DIN that
is `writeLanes`, at CMD it is `runCommand`, and every other offset ignores it. -/
theorem hostWriteHasItsRegistersEffect : Obligations.HostWriteHasItsRegistersEffect := by
  intro s rest off v hp hb h4
  have hstep : step s = memWrite off v { s with pending := rest } := step_write_idle hp hb h4
  refine ⟨fun i hi => ?key, fun i hi => ?din, fun h0 => ?cmd, fun hro => ?ignored⟩
  case key => exact ⟨_, hstep.trans (memWrite_key hi v _), rfl, writeLanes_byte_ofNat s.key i v⟩
  case din => exact ⟨_, hstep.trans (memWrite_din hi v _), rfl, writeLanes_byte_ofNat s.din i v⟩
  case cmd =>
    obtain rfl : off = Reg.offset .cmd := BitVec.eq_of_toNat_eq h0
    refine ⟨fun i hd => ?_, fun r hd => ?_⟩
    · rw [hstep, memWrite_cmd, runCommand_of_decode hd]
    · rw [hstep, memWrite_cmd, runCommand_of_reject hd, opField_eq_ofNat]
      rfl
  case ignored => rw [hstep, memWrite_ignored hro]

end Sys2Proof

/-! ## A word's fields as numbers, and the rows of the opcode map by number (R121, R124 to R126) -/

namespace Sys2Proof

theorem extractLsb'_eq_iff_toNat (w : Word) (lo n : Nat) (v : BitVec n) :
    w.extractLsb' lo n = v ↔ w.toNat / 2 ^ lo % 2 ^ n = v.toNat := by
  rw [← BitVec.toNat_inj, BitVec.extractLsb'_toNat, Nat.shiftRight_eq_div_pow]

theorem opBits_eq_iff (w : Word) (v : BitVec 8) : w.extractLsb' 0 8 = v ↔ opNumber w = v.toNat := by
  rw [extractLsb'_eq_iff_toNat, opNumber, pow_zero, Nat.div_one]

theorem argBits_eq_iff (w : Word) (v : BitVec 8) : w.extractLsb' 8 8 = v ↔ argNumber w = v.toNat :=
  extractLsb'_eq_iff_toNat w 8 8 v

theorem lenBits_eq_iff (w : Word) (v : BitVec 5) : w.extractLsb' 16 5 = v ↔ lenNumber w = v.toNat :=
  extractLsb'_eq_iff_toNat w 16 5 v

theorem idxBits_eq_iff (w : Word) (v : BitVec 4) : w.extractLsb' 24 4 = v ↔ idxNumber w = v.toNat :=
  extractLsb'_eq_iff_toNat w 24 4 v

theorem lenField_eq_lenNumber (w : Word) : lenField w = lenNumber w :=
  ((lenBits_eq_iff w _).mp rfl).symm

theorem idxField_eq_idxNumber (w : Word) : idxField w = idxNumber w :=
  ((idxBits_eq_iff w _).mp rfl).symm

theorem argField_eq_ofNat (w : Word) : argField w = BitVec.ofNat 8 (argNumber w) :=
  (argBits_eq_iff w _).mpr (by simp [argNumber])

/-- A word that matches the `n`th row of R124's table decodes to what that row builds. -/
theorem decode_of_rowAt (n : Fin 21) {w : Word} (h : w &&& opcodeRows[n].mask = opcodeRows[n].pattern) :
    decode w = .ok (opcodeRows[n].build w) :=
  decode_of_row (List.getElem_mem n.isLt) (beq_iff_eq.mpr h)

/-- Settles O2: each clause is a row of the opcode map, in R124's order, and the fields that its `build` reads are
the statement's numbers. -/
theorem matchingWordsSelectTheirRow : Obligations.MatchingWordsSelectTheirRow := by
  intro w
  simp only [← lenField_eq_lenNumber, ← idxField_eq_idxNumber, ← argField_eq_ofNat]
  exact ⟨decode_of_rowAt 0, decode_of_rowAt 1, decode_of_rowAt 2, decode_of_rowAt 3, decode_of_rowAt 4,
    decode_of_rowAt 5, decode_of_rowAt 6, decode_of_rowAt 7, decode_of_rowAt 8, decode_of_rowAt 9,
    decode_of_rowAt 10, decode_of_rowAt 11, decode_of_rowAt 12, decode_of_rowAt 13, decode_of_rowAt 14,
    decode_of_rowAt 15, decode_of_rowAt 16, decode_of_rowAt 17, decode_of_rowAt 18, decode_of_rowAt 19,
    decode_of_rowAt 20⟩

end Sys2Proof

/-! ## The words that select no command (R126) -/

namespace Sys2Proof

/-- Bits 23..21 and 31..28 of `w` are 0 (R121), as R126 reads them. -/
def reservedZero (w : Word) : Prop := w.toNat / 2 ^ 21 % 2 ^ 3 = 0 ∧ w.toNat / 2 ^ 28 = 0

theorem reservedZero_iff_bits (w : Word) :
    reservedZero w ↔ w.extractLsb' 28 4 = 0 ∧ w.extractLsb' 21 3 = 0 := by
  have hw : w.toNat < 2 ^ 32 := w.isLt
  have h28 : w.toNat / 2 ^ 28 % 2 ^ 4 = w.toNat / 2 ^ 28 := Nat.mod_eq_of_lt (by omega)
  simp only [reservedZero, extractLsb'_eq_iff_toNat, h28]
  exact and_comm

/-- A mask that compares the reserved bits with 0, as every row's does, leaves the four fields to compare. -/
theorem and_eq_iff_of_reserved (w : Word) {m p : Word} (hm : m.extractLsb' 28 4 = 15 ∧ m.extractLsb' 21 3 = 7)
    (hp : p.extractLsb' 28 4 = 0 ∧ p.extractLsb' 21 3 = 0) : w &&& m = p ↔
      reservedZero w
      ∧ w.extractLsb' 24 4 &&& m.extractLsb' 24 4 = p.extractLsb' 24 4
      ∧ w.extractLsb' 16 5 &&& m.extractLsb' 16 5 = p.extractLsb' 16 5
      ∧ w.extractLsb' 8 8 &&& m.extractLsb' 8 8 = p.extractLsb' 8 8
      ∧ w.extractLsb' 0 8 &&& m.extractLsb' 0 8 = p.extractLsb' 0 8 := by
  obtain ⟨hm28, hm21⟩ := hm
  obtain ⟨hp28, hp21⟩ := hp
  rw [and_eq_iff_fields, reservedZero_iff_bits, hm28, hm21, hp28, hp21]
  simp only [BitVec.ofNat_eq_ofNat, and_ones3, and_ones4]
  tauto

/-- The key, block and state commands read no ARG: four read LEN, ADD_ROUND_KEY reads IDX, the others neither. -/
theorem exists_stateRow_iff (w : Word) : (∃ row ∈ stateRows, row.selects w = true) ↔
    reservedZero w ∧ argNumber w = 0
    ∧ ((opNumber w ∈ [0x01, 0x02, 0x03, 0x10] ∧ idxNumber w = 0)
      ∨ (opNumber w = 0x18 ∧ lenNumber w = 0)
      ∨ (opNumber w ∈ [0x00, 0x11, 0x12, 0x13, 0x14, 0x15, 0x16, 0x17] ∧ lenNumber w = 0 ∧ idxNumber w = 0)) := by
  simp [stateRows, OpcodeRow.selects, and_eq_iff_of_reserved, opBits_eq_iff, idxBits_eq_iff, lenBits_eq_iff,
    argBits_eq_iff]
  grind

/-- The byte commands read no LEN: the six products have their constant in IDX, the others have 0 there. -/
theorem exists_byteRow_iff (w : Word) : (∃ row ∈ byteRows, row.selects w = true) ↔
    reservedZero w ∧ lenNumber w = 0
    ∧ ((opNumber w = 0x20 ∧ idxNumber w ∈ [0x2, 0x3, 0x9, 0xB, 0xD, 0xE])
      ∨ (opNumber w ∈ [0x21, 0x22] ∧ idxNumber w = 0)) := by
  simp [byteRows, OpcodeRow.selects, and_eq_iff_of_reserved, opBits_eq_iff, idxBits_eq_iff, lenBits_eq_iff]
  grind

/-- Below OP 0x20 R126 leaves the words of the key, block and state commands, from 0x20 on those of the byte
commands. -/
theorem exists_row_iff (w : Word) : (∃ row ∈ opcodeRows, row.selects w = true) ↔ ¬ selectsNoCommand w := by
  have hsplit : (∃ row ∈ opcodeRows, row.selects w = true) ↔
      (∃ row ∈ stateRows, row.selects w = true) ∨ (∃ row ∈ byteRows, row.selects w = true) := by
    simp only [opcodeRows, List.mem_append, or_and_right, exists_or]
  rw [hsplit, exists_stateRow_iff, exists_byteRow_iff]
  simp only [selectsNoCommand, reservedZero, List.mem_cons, List.not_mem_nil, or_false]
  constructor
  · rintro (⟨hres, harg, hop⟩ | ⟨hres, hlen, hop⟩)
    · omega
    · omega
  · intro h
    rcases Nat.lt_or_ge (opNumber w) 0x20 with hop | hop
    · left
      omega
    · right
      omega

theorem decode_ok_iff (w : Word) : (∃ i, decode w = .ok i) ↔ ¬ selectsNoCommand w := by
  rw [← exists_row_iff]
  constructor
  · rintro ⟨i, hi⟩
    obtain ⟨row, hm, hs, -⟩ := row_of_decode hi
    exact ⟨row, hm, hs⟩
  · rintro ⟨row, hm, hs⟩
    exact ⟨_, decode_of_row hm hs⟩

theorem decode_reject_of_selectsNoCommand {w : Word} (h : selectsNoCommand w) : ∃ r, decode w = .error r := by
  cases hd : decode w with
  | error r => exact ⟨r, rfl⟩
  | ok i => exact absurd h ((decode_ok_iff w).mp ⟨i, hd⟩)

open Machine

/-- Settles O3: a word decodes exactly when a row selects it, and by the fields of the rows those are the words R126
does not list. A listed word's step is `runCommand` on a word the decoder rejects. -/
theorem undefinedWordsRaiseIllegalCommand : Obligations.UndefinedWordsRaiseIllegalCommand := by
  intro w
  refine ⟨fun hw s rest hp hb => ?_, (decode_ok_iff w).mpr⟩
  obtain ⟨r, hr⟩ := decode_reject_of_selectsNoCommand hw
  rw [step_write_cmd hp hb, runCommand_of_reject hr, opField_eq_ofNat]
  rfl

end Sys2Proof

/-! ## Doubling in GF(2^8) and its inverse (R201, R208) -/

namespace Sys2Proof.Machine

theorem byte_lt_0x80_iff (b : Byte) : b < 0x80 ↔ b.getLsbD 7 = false := by
  have hmsb : b.getLsbD 7 = decide (0x80 ≤ b.toNat) := BitVec.msb_eq_decide b
  rw [hmsb, decide_eq_false_iff_not, not_le]
  exact BitVec.lt_def

/-- The byte by which doubling reduces: 0x1B when the shift pushes out a bit, else none (R201). -/
def reduction (b : Byte) : Byte := if b.getLsbD 7 then 0x1B else 0

theorem mul02_eq_shift_xor_reduction (b : Byte) : mul02 b = (b <<< 1) ^^^ reduction b := by
  simp only [mul02, reduction, byte_lt_0x80_iff]
  cases b.getLsbD 7 with
  | false => exact BitVec.xor_zero.symm
  | true => rfl

theorem reduction_xor (a b : Byte) : reduction (a ^^^ b) = reduction a ^^^ reduction b := by
  unfold reduction
  rw [BitVec.getLsbD_xor]
  cases a.getLsbD 7 <;> cases b.getLsbD 7 <;> rfl

theorem mul02_toNat (b : Byte) : (mul02 b).toNat =
    if b.toNat < 0x80 then (2 * b.toNat) % 2 ^ 8 else (2 * b.toNat ^^^ 0x1B) % 2 ^ 8 := by
  have hshift : (b <<< 1).toNat = (2 * b.toNat) % 2 ^ 8 := by
    rw [BitVec.toNat_shiftLeft, Nat.shiftLeft_eq, pow_one, mul_comm]
  unfold mul02
  by_cases h : b.toNat < 0x80
  · rw [if_pos (BitVec.lt_def.mpr h), if_pos h, hshift]
  · rw [if_neg (mt BitVec.lt_def.mp h), if_neg h, BitVec.toNat_xor, hshift, Nat.xor_mod_two_pow]
    rfl

theorem shiftRight_shiftLeft_of_even {y : Byte} (h : y.getLsbD 0 = false) : (y >>> 1) <<< 1 = y := by
  ext i hi
  cases i with
  | zero => simpa using h.symm
  | succ i => simp [hi, add_comm 1 i]

/-- An even byte is the double of its half, with no reduction. -/
theorem mul02_shiftRight_of_even {y : Byte} (h : y.getLsbD 0 = false) : mul02 (y >>> 1) = y := by
  have hlow : reduction (y >>> 1) = 0 := by simp [reduction]
  rw [mul02_eq_shift_xor_reduction, hlow, shiftRight_shiftLeft_of_even h]
  exact BitVec.xor_zero

/-- An odd byte is a double that was reduced: the reduction makes it even, and 0x80 asks for it again. -/
theorem mul02_shiftRight_of_odd {y : Byte} (h : y.getLsbD 0 = true) :
    mul02 (((y ^^^ 0x1B) >>> 1) ||| 0x80) = y := by
  have heven : (y ^^^ 0x1B).getLsbD 0 = false := by simp [h]
  have hhigh : reduction (((y ^^^ 0x1B) >>> 1) ||| 0x80) = 0x1B := by simp [reduction]
  have htop : (0x80 : Byte) <<< 1 = 0 := rfl
  rw [mul02_eq_shift_xor_reduction, hhigh, BitVec.shiftLeft_or_distrib, htop, shiftRight_shiftLeft_of_even heven]
  simp

theorem mul02_mul02Inv (y : Byte) : mul02 (mul02Inv y) = y := by
  unfold mul02Inv
  cases h : y.getLsbD 0 with
  | false => exact mul02_shiftRight_of_even h
  | true => exact mul02_shiftRight_of_odd h

/-- A map of bytes onto themselves is one to one. -/
theorem mul02_bijective : Function.Bijective mul02 :=
  Function.Surjective.bijective_of_finite fun y => ⟨mul02Inv y, mul02_mul02Inv y⟩

end Sys2Proof.Machine

/-! ## The GF_MUL commands (R210 to R215) -/

namespace Sys2Proof.Machine

theorem byteResult_eq (v : Byte) (s : State) :
    byteResult v s = .next { s with result := v, errKind := 0, errVal := 0, errOp := 0 } := rfl

/-- A byte command that answers leaves its byte in RESULT. -/
theorem byteResult_result {v : Byte} {s t : State} (h : byteResult v s = .next t) : t.result = v := by
  rw [byteResult_eq] at h
  exact (congrArg State.result (Host.Outcome.next.inj h)).symm

end Sys2Proof.Machine

namespace Sys2Proof

open Machine

/-- Settles O44: each command is `byteResult` at its multiplier. -/
theorem gfMulCommandsWriteTheProduct : Obligations.GfMulCommandsWriteTheProduct :=
  ⟨fun arg s => ⟨byteResult_eq (mul02 arg) s, byteResult_eq (mul03 arg) s, byteResult_eq (mul09 arg) s,
    byteResult_eq (mul0b arg) s, byteResult_eq (mul0d arg) s, byteResult_eq (mul0e arg) s⟩, mul02_toNat⟩

end Sys2Proof

/-! ## The constant multipliers are linear, and the general product has them as its cases (R202 to R208) -/

namespace Sys2Proof.Machine

/-- `f` maps 0 to 0 and XOR to XOR (R208). -/
def IsLinear (f : Byte → Byte) : Prop := f 0 = 0 ∧ ∀ a b : Byte, f (a ^^^ b) = f a ^^^ f b

theorem isLinear_id : IsLinear fun b => b := ⟨rfl, fun _ _ => rfl⟩

theorem isLinear_mul02 : IsLinear mul02 := by
  refine ⟨rfl, fun a b => ?_⟩
  simp only [mul02_eq_shift_xor_reduction, reduction_xor, BitVec.shiftLeft_xor_distrib]
  ac_rfl

theorem IsLinear.double {f : Byte → Byte} (hf : IsLinear f) : IsLinear fun b => mul02 (f b) := by
  obtain ⟨hf0, hfx⟩ := hf
  exact ⟨congrArg mul02 hf0, fun a b => (congrArg mul02 (hfx a b)).trans (isLinear_mul02.2 _ _)⟩

theorem IsLinear.xor {f g : Byte → Byte} (hf : IsLinear f) (hg : IsLinear g) : IsLinear fun b => f b ^^^ g b := by
  obtain ⟨hf0, hfx⟩ := hf
  obtain ⟨hg0, hgx⟩ := hg
  refine ⟨(congrArg₂ (· ^^^ ·) hf0 hg0).trans BitVec.xor_self, fun a b => ?_⟩
  simp only [hfx, hgx]
  ac_rfl

/-- Each constant multiplier is a sum of some of its operand's doublings. -/
theorem isLinear_of_mem_multipliers {f : Byte → Byte} (hf : f ∈ [mul02, mul03, mul09, mul0b, mul0d, mul0e]) :
    IsLinear f := by
  have h2 : IsLinear mul02 := isLinear_mul02
  have h4 : IsLinear fun b => mul02 (mul02 b) := h2.double
  have h8 : IsLinear fun b => mul02 (mul02 (mul02 b)) := h4.double
  simp only [List.mem_cons, List.not_mem_nil, or_false] at hf
  rcases hf with rfl | rfl | rfl | rfl | rfl | rfl
  · exact h2
  · exact h2.xor isLinear_id
  · exact h8.xor isLinear_id
  · exact (h8.xor h2).xor isLinear_id
  · exact (h8.xor h4).xor isLinear_id
  · exact (h8.xor h4).xor h2

/-- R207's sum, written out over the eight bits of `c`. -/
theorem gmul_eq_sum_of_doublings (a c : Byte) : gmul a c =
    (if c.getLsbD 0 then a else 0)
      ^^^ (if c.getLsbD 1 then mul02 a else 0)
      ^^^ (if c.getLsbD 2 then mul02 (mul02 a) else 0)
      ^^^ (if c.getLsbD 3 then mul02 (mul02 (mul02 a)) else 0)
      ^^^ (if c.getLsbD 4 then mul02 (mul02 (mul02 (mul02 a))) else 0)
      ^^^ (if c.getLsbD 5 then mul02 (mul02 (mul02 (mul02 (mul02 a)))) else 0)
      ^^^ (if c.getLsbD 6 then mul02 (mul02 (mul02 (mul02 (mul02 (mul02 a))))) else 0)
      ^^^ (if c.getLsbD 7 then mul02 (mul02 (mul02 (mul02 (mul02 (mul02 (mul02 a)))))) else 0) := by
  simp [gmul, gmulBelow, mul02Pow]

theorem gmul_constants (a : Byte) : gmul a 0x01 = a ∧ gmul a 0x02 = mul02 a ∧ gmul a 0x03 = mul03 a
    ∧ gmul a 0x09 = mul09 a ∧ gmul a 0x0b = mul0b a ∧ gmul a 0x0d = mul0d a ∧ gmul a 0x0e = mul0e a := by
  simp [gmul_eq_sum_of_doublings, mul03, mul09, mul0b, mul0d, mul0e, BitVec.xor_comm, BitVec.xor_assoc]

end Sys2Proof.Machine

namespace Sys2Proof

open Machine

/-- Settles O46: the general product is R207's sum written out, linearity is kept by doubling and by XOR, and
doubling is onto because R208's inverse is one on the right. -/
theorem multipliersAreLinearAndMul02IsABijection : Obligations.MultipliersAreLinearAndMul02IsABijection :=
  ⟨gmul_eq_sum_of_doublings, gmul_constants, fun _ hf => isLinear_of_mem_multipliers hf, mul02_bijective,
    fun _ => ⟨mul02_shiftRight_of_even, mul02_shiftRight_of_odd⟩⟩

end Sys2Proof

/-! ## Multiplication by 2 is multiplication by x, and the general product is the field's (R200) -/

namespace Sys2Proof

open Machine Polynomial

theorem bytePoly_xor (a b : Byte) : bytePoly (a ^^^ b) = bytePoly a + bytePoly b := by
  unfold bytePoly
  rw [← Finset.sum_add_distrib]
  refine Finset.sum_congr rfl fun i _ => ?_
  rw [BitVec.getLsbD_xor]
  cases a.getLsbD i <;> cases b.getLsbD i <;> simp [CharTwo.add_self_eq_zero]

/-- Shifting multiplies by x, but for the term x^8 of a bit that falls out. -/
theorem X_mul_bytePoly (b : Byte) :
    X * bytePoly b = bytePoly (b <<< 1) + if b.getLsbD 7 then X ^ 8 else 0 := by
  simp [bytePoly, Fin.sum_univ_eight, mul_add, ← pow_succ', ← pow_two]

theorem bytePoly_0x1B : bytePoly 0x1B = 1 + X + X ^ 3 + X ^ 4 := by
  simp [bytePoly, Fin.sum_univ_eight]

theorem fieldModulus_eq : fieldModulus = X ^ 8 + bytePoly 0x1B := by
  rw [fieldModulus, bytePoly_0x1B]
  ring

/-- The element of GF(2^8) a byte stands for: its polynomial's class modulo the modulus (R200). -/
noncomputable def fieldElement (b : Byte) : AdjoinRoot fieldModulus := AdjoinRoot.mk fieldModulus (bytePoly b)

theorem isFieldProduct_iff (p a c : Byte) :
    isFieldProduct p a c ↔ fieldElement p = fieldElement a * fieldElement c := by
  rw [isFieldProduct, fieldElement, fieldElement, fieldElement, ← map_mul, AdjoinRoot.mk_eq_mk]

theorem fieldElement_xor (a b : Byte) : fieldElement (a ^^^ b) = fieldElement a + fieldElement b := by
  simp [fieldElement, bytePoly_xor]

@[simp] theorem fieldElement_zero : fieldElement 0#8 = 0 := by simp [fieldElement, bytePoly]

/-- x^8 is 0x1B in the field, so that reducing restores the term that the shift dropped (R201). -/
theorem fieldElement_mul02 (b : Byte) :
    fieldElement (mul02 b) = AdjoinRoot.root fieldModulus * fieldElement b := by
  have hx8 : AdjoinRoot.mk fieldModulus (X ^ 8) = fieldElement 0x1B := by
    rw [fieldElement, AdjoinRoot.mk_eq_mk, CharTwo.sub_eq_add, ← fieldModulus_eq]
  have hred : fieldElement (reduction b) = AdjoinRoot.mk fieldModulus (if b.getLsbD 7 then X ^ 8 else 0) := by
    unfold reduction
    cases b.getLsbD 7 with
    | false => simp
    | true => exact hx8.symm
  calc fieldElement (mul02 b)
      = fieldElement (b <<< 1) + fieldElement (reduction b) := by
        rw [mul02_eq_shift_xor_reduction, fieldElement_xor]
    _ = AdjoinRoot.mk fieldModulus (X * bytePoly b) := by rw [hred, X_mul_bytePoly, map_add, fieldElement]
    _ = AdjoinRoot.root fieldModulus * fieldElement b := by rw [map_mul, AdjoinRoot.mk_X, fieldElement]

theorem fieldElement_mul02Pow (i : Nat) (a : Byte) :
    fieldElement (mul02Pow i a) = AdjoinRoot.root fieldModulus ^ i * fieldElement a := by
  induction i with
  | zero => simp [mul02Pow]
  | succ i ih => rw [mul02Pow, fieldElement_mul02, ih, pow_succ', mul_assoc]

theorem fieldElement_gmulBelow (a c : Byte) (n : Nat) : fieldElement (gmulBelow a c n) =
    fieldElement a * ∑ i ∈ Finset.range n, if c.getLsbD i then AdjoinRoot.root fieldModulus ^ i else 0 := by
  induction n with
  | zero => simp [gmulBelow]
  | succ n ih =>
    rw [gmulBelow, fieldElement_xor, ih, Finset.sum_range_succ, mul_add]
    congr 1
    cases c.getLsbD n with
    | false => simp
    | true => simp [fieldElement_mul02Pow, mul_comm]

theorem fieldElement_eq_sum (c : Byte) : fieldElement c =
    ∑ i ∈ Finset.range 8, if c.getLsbD i then AdjoinRoot.root fieldModulus ^ i else 0 := by
  rw [Finset.sum_range, fieldElement, bytePoly, map_sum]
  refine Finset.sum_congr rfl fun i _ => ?_
  rw [apply_ite (AdjoinRoot.mk fieldModulus), map_pow, AdjoinRoot.mk_X, map_zero]

theorem isFieldProduct_gmul (a c : Byte) : isFieldProduct (gmul a c) a c := by
  rw [isFieldProduct_iff, gmul, fieldElement_gmulBelow, fieldElement_eq_sum c]

/-- Settles O45: the class of a byte modulo the modulus takes XOR to sum and doubling to multiplication by x, so
R207's sum to the product; and each constant multiplier is a case of that sum. -/
theorem productsAreThoseOfTheField : Obligations.ProductsAreThoseOfTheField := by
  refine ⟨fun a b => ⟨bytePoly_xor a b, isFieldProduct_gmul a b⟩, fun arg s t => ?_⟩
  have hcmd {v c : Byte} (hv : gmul arg c = v) (h : byteResult v s = .next t) : isFieldProduct t.result arg c := by
    rw [byteResult_result h, ← hv]
    exact isFieldProduct_gmul arg c
  obtain ⟨-, h02, h03, h09, h0b, h0d, h0e⟩ := gmul_constants arg
  exact ⟨hcmd h02, hcmd h03, hcmd h09, hcmd h0b, hcmd h0d, hcmd h0e⟩

end Sys2Proof

/-! ## The substitution boxes are inverse permutations (R220, R221, R224)

The tables are printed constants, so what relates one entry to another is checked entry by entry; what holds of the
maps as a whole follows from those checks. -/

namespace Sys2Proof.Machine

@[simp] theorem invSbox_sbox (x : Byte) : invSbox (sbox x) = x := by revert x; decide

/-- SBOX has a left inverse, so it is one to one, and a one-to-one map of bytes is onto. -/
theorem sbox_bijective : Function.Bijective sbox :=
  Function.Injective.bijective_of_finite (Function.LeftInverse.injective invSbox_sbox)

/-- The left inverse of an onto map is its right inverse too. -/
@[simp] theorem sbox_invSbox (x : Byte) : sbox (invSbox x) = x :=
  Function.LeftInverse.rightInverse_of_surjective invSbox_sbox sbox_bijective.surjective x

theorem invSbox_bijective : Function.Bijective invSbox :=
  Function.bijective_iff_has_inverse.mpr ⟨sbox, sbox_invSbox, invSbox_sbox⟩

theorem sbox_ne_self (x : Byte) : sbox x ≠ x := by revert x; decide

theorem sbox_ne_complement (x : Byte) : sbox x ≠ x ^^^ 0xFF := by revert x; decide

end Sys2Proof.Machine

namespace Sys2Proof

open Machine

/-- Settles O48: INV_SBOX undoes SBOX entry by entry, which on a finite type makes both of them permutations. -/
theorem sboxTablesAreInversePermutations : Obligations.SboxTablesAreInversePermutations :=
  ⟨sbox_bijective, invSbox_bijective,
    fun x => ⟨invSbox_sbox x, sbox_invSbox x, sbox_ne_self x, sbox_ne_complement x⟩⟩

end Sys2Proof

/-! ## SBOX is the affine map of the field inverse (R222)

The inverse of a byte is read off its SBOX entry, by undoing the affine map. -/

namespace Sys2Proof.Machine

/-- The byte that R222's affine map takes to `y`. With T the rotation by one place, the affine map adds 0x63 to the
multiple by 1 + T + T^2 + T^3 + T^4; this is the multiple by T + T^3 + T^6, its inverse where T^8 = 1, plus what
undoes the 0x63. -/
def affineInverse (y : Byte) : Byte := y.rotateLeft 1 ^^^ y.rotateLeft 3 ^^^ y.rotateLeft 6 ^^^ 0x05

theorem affineMap_affineInverse (y : Byte) : affineMap (affineInverse y) = y := by revert y; decide

theorem affineInverse_sbox_zero : affineInverse (sbox 0) = 0 := rfl

/-- The content of the table: undoing the affine map on the entry of `x` gives the field inverse of `x`. -/
theorem gmul_affineInverse_sbox {x : Byte} (hx : x ≠ 0) : gmul x (affineInverse (sbox x)) = 0x01 := by
  revert x
  decide

end Sys2Proof.Machine

namespace Sys2Proof

open Machine

/-- Settles O50: the inverse of `x` is the byte that the affine map takes to SBOX[x]. -/
theorem sboxIsTheAffineMapOfTheInverse : Obligations.SboxIsTheAffineMapOfTheInverse := by
  intro x
  refine ⟨affineInverse (sbox x), ?_, (affineMap_affineInverse (sbox x)).symm⟩
  split_ifs with hx
  · rw [hx, affineInverse_sbox_zero]
  · exact gmul_affineInverse_sbox hx

end Sys2Proof

/-! ## The key schedule that EXPAND_KEY leaves (R241 to R247, R251) -/

namespace Sys2Proof.Machine

theorem paddedColumn_byte (p : Block) (c r : Fin 4) :
    (paddedColumn p c).byte r = p.byte ⟨r + 4 * c, by omega⟩ :=
  Column.byte_ofBytes _ r

/-- Column `c + 4` of the recurrence, row by row, with RCON's column at `c / 4` (R243, R244). -/
theorem nextColumn_add4_byte (c : Nat) (back4 prev : Column) (r : Fin 4) :
    (nextColumn (c + 4) back4 prev).byte r = back4.byte r ^^^
      (if c % 4 = 0 then sbox (prev.byte (r + 1)) ^^^ rcon r (c / 4) else prev.byte r) := by
  have hrow : (c + 4) % 4 = c % 4 := Nat.add_mod_right c 4
  have hrcon : (c + 4) / 4 - 1 = c / 4 := by omega
  simp only [nextColumn, scheduleTerm, Column.byte_ofBytes, hrow, hrcon]

/-- Columns 0 to 3 of the schedule are the padded key, column-major (R242). -/
theorem keyExpansion_byte_lt4 (key : Block) (len : Nat) (r c : Fin 4) :
    (keyExpansion key len).byte r ⟨c, by omega⟩ =
      if r.val + 4 * c.val < len then key.byte ⟨r + 4 * c, by omega⟩ else 0x01 := by
  rw [keyExpansion_byte, scheduleColumn_lt, paddedColumn_byte, padKey_byte]

/-- Columns 4 to 43 of the schedule, each from the column 4 back and the previous one (R243, R244). -/
theorem keyExpansion_byte_add4 (key : Block) (len c : Nat) (hc : c < 40) (r : Fin 4) :
    (keyExpansion key len).byte r ⟨c + 4, by omega⟩ = (keyExpansion key len).byte r ⟨c, by omega⟩ ^^^
      (if c % 4 = 0 then
        sbox ((keyExpansion key len).byte (r + 1) ⟨c + 3, by omega⟩) ^^^ rcon r (c / 4)
      else (keyExpansion key len).byte r ⟨c + 3, by omega⟩) := by
  simp only [keyExpansion_byte]
  rw [scheduleColumn_add4, nextColumn_add4_byte]

theorem padKey_eq_of_bytes {key key' : Block} {len len' : Nat}
    (h : ∀ i : Fin 16,
      (if i.val < len then key.byte i else 0x01) = (if i.val < len' then key'.byte i else 0x01)) :
    padKey key len = padKey key' len' :=
  Block.ext_byte fun i => by rw [padKey_byte, padKey_byte, h i]

/-- A byte 0x01 at the key's end is what the padding writes there (R251). -/
theorem padKey_succ {key : Block} {len : Nat} (h : len < 16) (hbyte : key.byte ⟨len, h⟩ = 0x01) :
    padKey key len = padKey key (len + 1) := by
  refine padKey_eq_of_bytes fun i => ?_
  rcases Nat.lt_trichotomy i.val len with hlt | heq | hgt
  · rw [if_pos hlt, if_pos (Nat.lt_succ_of_lt hlt)]
  · obtain rfl : i = ⟨len, h⟩ := Fin.ext heq
    rw [if_neg (Nat.lt_irrefl len), if_pos (Nat.lt_succ_self len), hbyte]
  · rw [if_neg (Nat.lt_asymm hgt), if_neg (Nat.not_lt.mpr hgt)]

/-- The schedule is a function of the padded key alone (R246). -/
theorem keyExpansion_eq_of_padKey {key key' : Block} {len len' : Nat} (h : padKey key len = padKey key' len') :
    keyExpansion key len = keyExpansion key' len' := by
  unfold keyExpansion
  rw [h]

end Sys2Proof.Machine

namespace Sys2Proof

open Machine

/-- Settles O27: above 16 the length check raises. Up to 16 the state is the one with `keyExpansion` in RK, whose
columns 0 to 3 are the padded key and whose columns 4 to 43 are the recurrence. -/
theorem expandKeyWritesThePaddedSchedule : Obligations.ExpandKeyWritesThePaddedSchedule :=
  ⟨fun _ s hgt _ => exec_expandKey_of_gt hgt s, fun len s hle =>
    ⟨_, exec_expandKey_of_le hle s, rfl, keyExpansion_byte_lt4 s.key len, keyExpansion_byte_add4 s.key len⟩⟩

/-- Settles O29: the schedule depends on the padded key only, and the padding of a key of length `len` writes 0x01
at byte `len`. -/
theorem paddedKeysDecideTheSchedule : Obligations.PaddedKeysDecideTheSchedule := by
  refine ⟨fun key len h hbyte => ?_, fun key key' len len' hbytes => ?_⟩
  · have hpad : padKey key len = padKey key (len + 1) := padKey_succ h hbyte
    exact ⟨hpad, keyExpansion_eq_of_padKey hpad⟩
  · exact keyExpansion_eq_of_padKey (padKey_eq_of_bytes hbytes)

end Sys2Proof

/-! ## The step-mode commands, and what each leaves in STATE (R260 to R266, R270 to R276) -/

namespace Sys2Proof.Machine

theorem replaceState_eq (m : StateMatrix) (s : State) :
    replaceState m s = .next { s with st := m, errKind := 0, errVal := 0, errOp := 0 } := rfl

/-- Row `r` of InvShiftRows, read from the source: each byte moves right by `r` places (R263). -/
theorem invShiftRows_byte_add (m : StateMatrix) (r c : Fin 4) :
    (invShiftRows m).byte r (c + r) = m.byte r c := by
  rw [invShiftRows_byte, add_sub_cancel_right]

/-- Row `r` of the matrix of R264 is its first row, rotated by `r`. -/
theorem mixColumns_byte_gmul (m : StateMatrix) (r c : Fin 4) : (mixColumns m).byte r c =
    gmul (m.byte r c) 0x02 ^^^ gmul (m.byte (r + 1) c) 0x03
      ^^^ gmul (m.byte (r + 2) c) 0x01 ^^^ gmul (m.byte (r + 3) c) 0x01 := by
  simp only [mixColumns_byte, gmul_constants]
  fin_cases r <;> simp [mixColumn, Column.byte] <;> ac_rfl

/-- Row `r` of the matrix of R265 is its first row, rotated by `r`. -/
theorem invMixColumns_byte_gmul (m : StateMatrix) (r c : Fin 4) : (invMixColumns m).byte r c =
    gmul (m.byte r c) 0x0e ^^^ gmul (m.byte (r + 1) c) 0x0b
      ^^^ gmul (m.byte (r + 2) c) 0x0d ^^^ gmul (m.byte (r + 3) c) 0x09 := by
  simp only [invMixColumns_byte, gmul_constants]
  fin_cases r <;> simp [invMixColumn, Column.byte] <;> ac_rfl

end Sys2Proof.Machine

namespace Sys2Proof

open Machine

/-- Settles O31: both commands are `replaceState` at their transform, which looks up each byte. -/
theorem subBytesCommandsLookUpEveryByte : Obligations.SubBytesCommandsLookUpEveryByte := fun s =>
  ⟨⟨_, replaceState_eq _ s, rfl, subBytes_byte s.st⟩, ⟨_, replaceState_eq _ s, rfl, invSubBytes_byte s.st⟩⟩

/-- Settles O32: both commands are `replaceState` at their transform; addition of columns is modulo 4. -/
theorem shiftRowsCommandsRotateRows : Obligations.ShiftRowsCommandsRotateRows := fun s =>
  ⟨⟨_, replaceState_eq _ s, rfl, shiftRows_byte s.st⟩, ⟨_, replaceState_eq _ s, rfl, invShiftRows_byte_add s.st⟩⟩

/-- Settles O33: both commands are `replaceState` at their transform, whose rows are the rotations of the matrix's
first row. -/
theorem mixColumnsCommandsMultiplyByTheMatrix : Obligations.MixColumnsCommandsMultiplyByTheMatrix := fun s =>
  ⟨⟨_, replaceState_eq _ s, rfl, mixColumns_byte_gmul s.st⟩,
    ⟨_, replaceState_eq _ s, rfl, invMixColumns_byte_gmul s.st⟩⟩

/-- Settles O34: the index check comes first, then the schedule check, and then the state is replaced. -/
theorem addRoundKeyXorsTheRoundKey : Obligations.AddRoundKeyXorsTheRoundKey := by
  refine ⟨fun k s hgt _ => exec_addRoundKey_of_ge hgt s,
    fun k s hle hinvalid => exec_addRoundKey_of_invalid hinvalid (Nat.lt_succ_of_le hle),
    fun k hle s hvalid => ?_⟩
  have hexec := exec_addRoundKey_of_valid hvalid (Nat.lt_succ_of_le hle)
  rw [replaceState_eq] at hexec
  exact ⟨_, hexec, rfl, addRoundKey_byte s.st s.rk _⟩

/-- Settles O43: every clause reads off the transform's byte equation; a rotation of a row is the permutation
that adds the row's number to the column, or subtracts it. -/
theorem transformsActOnTheirLanes : Obligations.TransformsActOnTheirLanes := by
  intro m m' rk k
  refine ⟨StateMatrix.ext_byte fun r c => ?_, StateMatrix.ext_byte fun r c => ?_, fun r c hbyte => ?_, fun r => ?_,
    fun c hcol r => ?_⟩
  · simp only [subBytes_byte, shiftRows_byte]
  · simp only [invSubBytes_byte, invShiftRows_byte]
  · simp only [subBytes_byte, invSubBytes_byte, addRoundKey_byte, hbyte, and_self]
  · exact ⟨Equiv.addRight r, Equiv.subRight r, fun c => ⟨shiftRows_byte m r c, invShiftRows_byte m r c⟩⟩
  · simp only [mixColumns_byte, invMixColumns_byte, hcol, and_self]

end Sys2Proof

/-! ## A byte is determined by its element of GF(2^8) (R200) -/

namespace Sys2Proof

open Machine Polynomial

theorem coeff_bytePoly (b : Byte) (i : Fin 8) : (bytePoly b).coeff i = if b.getLsbD i then 1 else 0 := by
  rw [bytePoly, finsetSum_coeff, Finset.sum_eq_single i ?other (by simp)]
  · cases b.getLsbD i <;> simp
  case other =>
    intro j _ hji
    have hne : (i : ℕ) ≠ j := fun h => hji (Fin.ext h.symm)
    cases b.getLsbD j <;> simp [coeff_X_pow, hne]

theorem bytePoly_injective : Function.Injective bytePoly := by
  intro a b h
  refine BitVec.eq_of_getLsbD_eq fun i hi => ?_
  have hbit : (if a.getLsbD i then 1 else 0 : ZMod 2) = if b.getLsbD i then 1 else 0 := by
    rw [← coeff_bytePoly a ⟨i, hi⟩, h, coeff_bytePoly b ⟨i, hi⟩]
  revert hbit
  cases a.getLsbD i <;> cases b.getLsbD i <;> decide

theorem degree_bytePoly_lt (b : Byte) : (bytePoly b).degree < 8 := by
  have hbot : (⊥ : WithBot ℕ) < 8 := WithBot.bot_lt_coe 8
  refine (degree_sum_le _ _).trans_lt ((Finset.sup_lt_iff hbot).mpr fun i _ => ?_)
  cases b.getLsbD i with
  | false => simpa using hbot
  | true => simp

theorem degree_fieldModulus : fieldModulus.degree = 8 := by
  unfold fieldModulus
  compute_degree!

/-- Bytes stand for polynomials of degree below the modulus's, which differ modulo it when they differ. -/
theorem fieldElement_injective : Function.Injective fieldElement := by
  intro a b h
  have hdvd : fieldModulus ∣ bytePoly a - bytePoly b := AdjoinRoot.mk_eq_mk.mp h
  have hdeg : (bytePoly a - bytePoly b).degree < fieldModulus.degree := by
    rw [degree_fieldModulus]
    exact (degree_sub_le _ _).trans_lt (max_lt (degree_bytePoly_lt a) (degree_bytePoly_lt b))
  exact bytePoly_injective (sub_eq_zero.mp (eq_zero_of_dvd_of_degree_lt hdvd hdeg))

theorem fieldElement_gmul (a c : Byte) : fieldElement (gmul a c) = fieldElement a * fieldElement c :=
  (isFieldProduct_iff _ a c).mp (isFieldProduct_gmul a c)

theorem fieldElement_one : fieldElement 0x01 = 1 := by simp [fieldElement, bytePoly]

end Sys2Proof

/-! ## The matrices of MixColumns and InvMixColumns are inverse over GF(2^8) (R264, R265, R267) -/

namespace Sys2Proof

open Machine Matrix

/-- The circulant matrix over GF(2^8) with the given first row. -/
noncomputable def fieldCirculant (row : Fin 4 → Byte) : Matrix (Fin 4) (Fin 4) (AdjoinRoot fieldModulus) :=
  circulant fun i => fieldElement (row (-i))

/-- Column `c` of a state matrix, as a vector over GF(2^8). -/
noncomputable def fieldColumn (m : StateMatrix) (c : Fin 4) : Fin 4 → AdjoinRoot fieldModulus :=
  fun r => fieldElement (m.byte r c)

theorem eq_of_fieldColumn_eq {m m' : StateMatrix} (h : ∀ c, fieldColumn m c = fieldColumn m' c) : m = m' :=
  StateMatrix.ext_byte fun r c => fieldElement_injective (congrFun (h c) r)

/-- Each row of a circulant matrix is its first row, rotated to start at the diagonal. -/
theorem fieldCirculant_mulVec (row : Fin 4 → Byte) (x : Fin 4 → AdjoinRoot fieldModulus) (r : Fin 4) :
    (fieldCirculant row *ᵥ x) r = ∑ i, fieldElement (row i) * x (r + i) := by
  rw [mulVec, dotProduct, ← Equiv.sum_comp (Equiv.addLeft r)]
  simp [fieldCirculant, circulant_apply]

theorem fieldColumn_eq_mulVec {m m' : StateMatrix} {row : Fin 4 → Byte} {c : Fin 4}
    (h : ∀ r, m'.byte r c = gmul (m.byte r c) (row 0) ^^^ gmul (m.byte (r + 1) c) (row 1)
      ^^^ gmul (m.byte (r + 2) c) (row 2) ^^^ gmul (m.byte (r + 3) c) (row 3)) :
    fieldColumn m' c = fieldCirculant row *ᵥ fieldColumn m c := by
  funext r
  rw [fieldCirculant_mulVec, Fin.sum_univ_four]
  simp only [fieldColumn, h, fieldElement_xor, fieldElement_gmul, mul_comm, add_zero]

/-- The first row of the matrix of R264. -/
def mixRow : Fin 4 → Byte := ![0x02, 0x03, 0x01, 0x01]

/-- The first row of the matrix of R265. -/
def invMixRow : Fin 4 → Byte := ![0x0e, 0x0b, 0x0d, 0x09]

theorem fieldColumn_mixColumns (m : StateMatrix) (c : Fin 4) :
    fieldColumn (mixColumns m) c = fieldCirculant mixRow *ᵥ fieldColumn m c :=
  fieldColumn_eq_mulVec fun r => mixColumns_byte_gmul m r c

theorem fieldColumn_invMixColumns (m : StateMatrix) (c : Fin 4) :
    fieldColumn (invMixColumns m) c = fieldCirculant invMixRow *ᵥ fieldColumn m c :=
  fieldColumn_eq_mulVec fun r => invMixColumns_byte_gmul m r c

/-- The matrix of R265 times the first column of that of R264, computed in bytes. -/
theorem invMixRow_mul_mixColumn (r : Fin 4) :
    gmul (invMixRow 0) (mixRow (-(r + 0))) ^^^ gmul (invMixRow 1) (mixRow (-(r + 1)))
      ^^^ gmul (invMixRow 2) (mixRow (-(r + 2))) ^^^ gmul (invMixRow 3) (mixRow (-(r + 3))) =
    if r = 0 then 0x01 else 0 := by
  revert r
  decide

/-- A product of circulant matrices is circulant, so its first column decides it. -/
theorem fieldCirculant_invMixRow_mul_mixRow : fieldCirculant invMixRow * fieldCirculant mixRow = 1 := by
  rw [fieldCirculant, fieldCirculant, circulant_mul, ← circulant_single_one]
  congr 1
  funext r
  rw [← fieldCirculant, fieldCirculant_mulVec, Fin.sum_univ_four]
  simp only [← fieldElement_gmul, ← fieldElement_xor]
  rw [invMixRow_mul_mixColumn, Pi.single_apply, apply_ite fieldElement, fieldElement_one]
  exact congrArg _ fieldElement_zero

theorem invMixColumns_mixColumns (m : StateMatrix) : invMixColumns (mixColumns m) = m :=
  eq_of_fieldColumn_eq fun c => by
    rw [fieldColumn_invMixColumns, fieldColumn_mixColumns, mulVec_mulVec, fieldCirculant_invMixRow_mul_mixRow,
      one_mulVec]

/-- A left inverse of a square matrix is its right inverse too. -/
theorem mixColumns_invMixColumns (m : StateMatrix) : mixColumns (invMixColumns m) = m :=
  eq_of_fieldColumn_eq fun c => by
    rw [fieldColumn_mixColumns, fieldColumn_invMixColumns, mulVec_mulVec,
      mul_eq_one_comm.mp fieldCirculant_invMixRow_mul_mixRow, one_mulVec]

/-- Settles O42: the substitutions, the rotations and the XOR undo each other byte by byte, and the two matrices are
inverse over GF(2^8). -/
theorem roundTransformsHaveTheirInverses : Obligations.RoundTransformsHaveTheirInverses := by
  intro m rk k
  refine ⟨StateMatrix.ext_byte fun r c => ?_, StateMatrix.ext_byte fun r c => ?_, StateMatrix.ext_byte fun r c => ?_,
    StateMatrix.ext_byte fun r c => ?_, invMixColumns_mixColumns m, mixColumns_invMixColumns m,
    StateMatrix.ext_byte fun r c => ?_⟩
  · rw [invSubBytes_byte, subBytes_byte, invSbox_sbox]
  · rw [subBytes_byte, invSubBytes_byte, sbox_invSbox]
  · rw [invShiftRows_byte, shiftRows_byte, sub_add_cancel]
  · rw [shiftRows_byte, invShiftRows_byte, add_sub_cancel_right]
  · rw [addRoundKey_byte, addRoundKey_byte, BitVec.xor_assoc, BitVec.xor_self, BitVec.xor_zero]

end Sys2Proof

/-! ## LOAD_STATE and STORE_STATE (R290, R291, R296, R297) -/

namespace Sys2Proof

open Machine

/-- Settles O30: the length check raises, and with LEN 16 the two commands are `load` and `unload`. -/
theorem loadAndStoreMoveTheBlockColumnMajor : Obligations.LoadAndStoreMoveTheBlockColumnMajor := fun s =>
  ⟨fun _ _ hne => exec_loadState_of_ne hne s, ⟨_, rfl, rfl, load_byte s.din⟩, ⟨_, rfl, rfl, unload_byte s.st⟩,
    unload_load⟩

end Sys2Proof

/-! ## The states inside a cipher (R292, R293)

Both ciphers fold their round over the numbers 1 to 9, the inverse cipher from the end, so the state after `k`
rounds is the fold over the first `k` numbers. -/

namespace Sys2Proof.Machine

/-- The rounds with MixColumns, in the order of Cipher (R292). -/
def middleRounds : List (Fin 11) := [1, 2, 3, 4, 5, 6, 7, 8, 9]

theorem cipher_eq (m : StateMatrix) (rk : Schedule) : cipher m rk =
    addRoundKey (shiftRows (subBytes (middleRounds.foldl (cipherRound rk) (addRoundKey m rk 0)))) rk 10 := rfl

theorem invCipher_eq (m : StateMatrix) (rk : Schedule) : invCipher m rk =
    addRoundKey (invSubBytes (invShiftRows
      (middleRounds.reverse.foldl (invCipherRound rk) (addRoundKey m rk 10)))) rk 0 := rfl

theorem middleRounds_getElem : ∀ (k : Nat) (hk : k < 9),
    middleRounds[k]'hk = ⟨k + 1, by omega⟩ := by decide

theorem middleRounds_reverse_getElem : ∀ (k : Nat) (hk : k < 9),
    middleRounds.reverse[k]'hk = ⟨9 - k, by omega⟩ := by decide

/-- The state of Cipher after AddRoundKey(0) and its first `k` rounds. -/
def cipherState (m : StateMatrix) (rk : Schedule) (k : Nat) : StateMatrix :=
  (middleRounds.take k).foldl (cipherRound rk) (addRoundKey m rk 0)

/-- The state of InvCipher after AddRoundKey(10) and its first `k` rounds. -/
def invCipherState (m : StateMatrix) (rk : Schedule) (k : Nat) : StateMatrix :=
  (middleRounds.reverse.take k).foldl (invCipherRound rk) (addRoundKey m rk 10)

theorem foldl_take_succ {α β : Type} (f : α → β → α) (a : α) {l : List β} {k : Nat} (h : k < l.length) :
    (l.take (k + 1)).foldl f a = f ((l.take k).foldl f a) l[k] := by
  rw [List.take_succ_eq_append_getElem h, List.foldl_concat]

theorem cipherState_succ (m : StateMatrix) (rk : Schedule) (k : Nat) (hk : k < 9) :
    cipherState m rk (k + 1) = cipherRound rk (cipherState m rk k) ⟨k + 1, by omega⟩ := by
  rw [← middleRounds_getElem k hk]
  exact foldl_take_succ _ _ hk

theorem invCipherState_succ (m : StateMatrix) (rk : Schedule) (k : Nat) (hk : k < 9) :
    invCipherState m rk (k + 1) = invCipherRound rk (invCipherState m rk k) ⟨9 - k, by omega⟩ := by
  rw [← middleRounds_reverse_getElem k hk]
  exact foldl_take_succ _ _ hk

theorem cipherState_zero_load_byte (b : Block) (rk : Schedule) (r c : Fin 4) :
    (cipherState (load b) rk 0).byte r c = b.byte ⟨r + 4 * c, by omega⟩ ^^^ rk.byte r ⟨c, by omega⟩ := by
  simp [cipherState]

theorem invCipherState_zero_load_byte (b : Block) (rk : Schedule) (r c : Fin 4) :
    (invCipherState (load b) rk 0).byte r c =
      b.byte ⟨r + 4 * c, by omega⟩ ^^^ rk.byte r ⟨40 + c, by omega⟩ := by
  simp [invCipherState]

theorem cipher_eq_cipherState (m : StateMatrix) (rk : Schedule) :
    cipher m rk = addRoundKey (shiftRows (subBytes (cipherState m rk 9))) rk 10 := rfl

theorem invCipher_eq_invCipherState (m : StateMatrix) (rk : Schedule) :
    invCipher m rk = addRoundKey (invSubBytes (invShiftRows (invCipherState m rk 9))) rk 0 := rfl

theorem finishBlock_eq (m : StateMatrix) (s : State) : finishBlock m s =
    .next { s with st := m, dout := unload m, errKind := 0, errVal := 0, errOp := 0 } := rfl

end Sys2Proof.Machine

namespace Sys2Proof

open Machine

/-- Settles O35: the checks raise in their order, and past them the chain is `cipherState`. -/
theorem encryptLeavesTheCipherOfDin : Obligations.EncryptLeavesTheCipherOfDin := by
  refine ⟨fun _ s _ hne => exec_encrypt_of_ne hne s, fun s hinvalid => exec_encrypt_of_invalid hinvalid,
    fun s hvalid => ?_⟩
  have hexec := exec_encrypt_of_valid hvalid
  rw [finishBlock_eq] at hexec
  exact ⟨_, hexec, rfl, unload_byte _, cipherState (load s.din) s.rk, cipherState_zero_load_byte s.din s.rk,
    cipherState_succ (load s.din) s.rk, cipher_eq_cipherState _ _⟩

/-- Settles O36: the checks raise in their order, and past them the chain is `invCipherState`. -/
theorem decryptLeavesTheInverseCipherOfDin : Obligations.DecryptLeavesTheInverseCipherOfDin := by
  refine ⟨fun _ s _ hne => exec_decrypt_of_ne hne s, fun s hinvalid => exec_decrypt_of_invalid hinvalid,
    fun s hvalid => ?_⟩
  have hexec := exec_decrypt_of_valid hvalid
  rw [finishBlock_eq] at hexec
  exact ⟨_, hexec, rfl, unload_byte _, invCipherState (load s.din) s.rk,
    invCipherState_zero_load_byte s.din s.rk, invCipherState_succ (load s.din) s.rk,
    invCipher_eq_invCipherState _ _⟩

end Sys2Proof

/-! ## The two ciphers undo each other (R294)

The rounds are cut at different places: an inverse round begins where its round's SubBytes and ShiftRows have been
done. So a round is undone not on its own but together with the substitution and rotation that follow it. -/

namespace Sys2Proof.Machine

/-- A fold with `f` is undone by folding `g` over the reversed list when `g` undoes each step of `f` seen through
`h`. -/
theorem foldl_reverse_undoes_foldl {α β : Type} {f g : α → β → α} {h : α → α}
    (hstep : ∀ a b, g (h (f a b)) b = h a) (a : α) (l : List β) :
    l.reverse.foldl g (h (l.foldl f a)) = h a := by
  induction l generalizing a with
  | nil => rfl
  | cons b l ih => rw [List.reverse_cons, List.foldl_concat, List.foldl_cons, ih, hstep]

theorem addRoundKey_addRoundKey (m : StateMatrix) (rk : Schedule) (k : Fin 11) :
    addRoundKey (addRoundKey m rk k) rk k = m := by
  obtain ⟨-, -, -, -, -, -, hxor⟩ := roundTransformsHaveTheirInverses m rk k
  exact hxor

theorem invSubBytes_invShiftRows_shiftRows_subBytes (m : StateMatrix) :
    invSubBytes (invShiftRows (shiftRows (subBytes m))) = m :=
  StateMatrix.ext_byte fun r c => by
    rw [invSubBytes_byte, invShiftRows_byte, shiftRows_byte, subBytes_byte, sub_add_cancel, invSbox_sbox]

theorem shiftRows_subBytes_invSubBytes_invShiftRows (m : StateMatrix) :
    shiftRows (subBytes (invSubBytes (invShiftRows m))) = m :=
  StateMatrix.ext_byte fun r c => by
    rw [shiftRows_byte, subBytes_byte, invSubBytes_byte, invShiftRows_byte, sbox_invSbox, add_sub_cancel_right]

theorem invCipherRound_undoes_cipherRound (rk : Schedule) (m : StateMatrix) (k : Fin 11) :
    invCipherRound rk (shiftRows (subBytes (cipherRound rk m k))) k = shiftRows (subBytes m) := by
  rw [invCipherRound, invSubBytes_invShiftRows_shiftRows_subBytes, cipherRound, addRoundKey_addRoundKey,
    invMixColumns_mixColumns]

theorem cipherRound_undoes_invCipherRound (rk : Schedule) (m : StateMatrix) (k : Fin 11) :
    cipherRound rk (invSubBytes (invShiftRows (invCipherRound rk m k))) k = invSubBytes (invShiftRows m) := by
  rw [cipherRound, shiftRows_subBytes_invSubBytes_invShiftRows, invCipherRound, mixColumns_invMixColumns,
    addRoundKey_addRoundKey]

theorem invCipherRounds_undo_cipherRounds (rk : Schedule) (m : StateMatrix) (ks : List (Fin 11)) :
    ks.reverse.foldl (invCipherRound rk) (shiftRows (subBytes (ks.foldl (cipherRound rk) m))) =
      shiftRows (subBytes m) :=
  foldl_reverse_undoes_foldl (h := shiftRows ∘ subBytes) (invCipherRound_undoes_cipherRound rk) m ks

theorem cipherRounds_undo_invCipherRounds (rk : Schedule) (m : StateMatrix) (ks : List (Fin 11)) :
    ks.foldl (cipherRound rk) (invSubBytes (invShiftRows (ks.reverse.foldl (invCipherRound rk) m))) =
      invSubBytes (invShiftRows m) := by
  have hundo := foldl_reverse_undoes_foldl (h := invSubBytes ∘ invShiftRows)
    (cipherRound_undoes_invCipherRound rk) m ks.reverse
  rwa [List.reverse_reverse] at hundo

@[simp] theorem invCipher_cipher (m : StateMatrix) (rk : Schedule) : invCipher (cipher m rk) rk = m := by
  rw [invCipher_eq, cipher_eq, addRoundKey_addRoundKey, invCipherRounds_undo_cipherRounds,
    invSubBytes_invShiftRows_shiftRows_subBytes, addRoundKey_addRoundKey]

@[simp] theorem cipher_invCipher (m : StateMatrix) (rk : Schedule) : cipher (invCipher m rk) rk = m := by
  rw [cipher_eq, invCipher_eq, addRoundKey_addRoundKey, cipherRounds_undo_invCipherRounds,
    shiftRows_subBytes_invSubBytes_invShiftRows, addRoundKey_addRoundKey]

end Sys2Proof.Machine

namespace Sys2Proof

open Machine

/-- Settles O38: the folds of the two rounds undo each other, for every schedule. -/
theorem ciphersUndoEachOther : Obligations.CiphersUndoEachOther := fun m rk =>
  ⟨invCipher_cipher m rk, cipher_invCipher m rk⟩

end Sys2Proof

/-! ## ENCRYPT and DECRYPT read only DIN, RK and KS_VALID (R301) -/

namespace Sys2Proof.Machine

/-- What ENCRYPT and DECRYPT share: the two checks, and past them the block `m` (R298, R299, R408). -/
def blockCommand (len : Nat) (op : Byte) (m : StateMatrix) (s : State) : Answer :=
  requireBlockLength len op s <| requireKeySchedule op s <| finishBlock m s

theorem exec_encrypt_eq_blockCommand (len : Nat) (s : State) :
    exec (.encrypt len) s = blockCommand len opEncrypt (cipher (load s.din) s.rk) s := rfl

theorem exec_decrypt_eq_blockCommand (len : Nat) (s : State) :
    exec (.decrypt len) s = blockCommand len opDecrypt (invCipher (load s.din) s.rk) s := rfl

/-- No error's code is 0, so a state with ERR.KIND = 0 was left by no raise (R400). -/
theorem raise_errKind_ne_zero (kind : ErrorKind) (val : Nat) (op : Byte) (s : State) :
    (raise kind val op s).errKind ≠ 0 :=
  code_ne_zero kind

/-- Apart from the block `m`, a block command reads KS_VALID alone: the same check fails from both states, or the
same block is left. -/
theorem blockCommand_agrees (len : Nat) (op : Byte) (m : StateMatrix) {s s' : State}
    (hks : s.ksValid = s'.ksValid) :
    ∃ t t', blockCommand len op m s = .next t ∧ blockCommand len op m s' = .next t'
      ∧ t.errKind = t'.errKind ∧ t.errVal = t'.errVal ∧ t.errOp = t'.errOp
      ∧ (t.errKind = 0 → t.st = t'.st ∧ t.dout = t'.dout) := by
  by_cases hlen : len = 16
  · subst hlen
    cases hvalid : s.ksValid with
    | false => exact ⟨_, _, requireKeySchedule_of_invalid hvalid _ _,
        requireKeySchedule_of_invalid (hks.symm.trans hvalid) _ _, rfl, rfl, rfl,
        fun hnone => absurd hnone (raise_errKind_ne_zero _ _ _ _)⟩
    | true => exact ⟨_, _, requireKeySchedule_of_valid hvalid _ _,
        requireKeySchedule_of_valid (hks.symm.trans hvalid) _ _, rfl, rfl, rfl, fun _ => ⟨rfl, rfl⟩⟩
  · exact ⟨_, _, requireBlockLength_of_ne hlen _ _ _, requireBlockLength_of_ne hlen _ _ _, rfl, rfl, rfl,
      fun hnone => absurd hnone (raise_errKind_ne_zero _ _ _ _)⟩

end Sys2Proof.Machine

namespace Sys2Proof

open Machine

/-- Settles O40: both commands are `blockCommand` at a block that DIN and RK decide. -/
theorem blockCommandsReadOnlyDinAndSchedule : Obligations.BlockCommandsReadOnlyDinAndSchedule := by
  intro s s' len hdin hrk hks
  simp only [exec_encrypt_eq_blockCommand, exec_decrypt_eq_blockCommand, hdin, hrk]
  exact ⟨blockCommand_agrees len opEncrypt _ hks, blockCommand_agrees len opDecrypt _ hks⟩

end Sys2Proof

/-! ## Chunks, padding and Strip of the framing functions (R321, R322, R325) -/

namespace Sys2Proof.Machine

/-! ### Blocks as byte lists -/

@[simp] theorem length_blockBytes (b : Block) : (blockBytes b).length = 16 := b.length_toList

@[simp] theorem blockOf_blockBytes (b : Block) : blockOf (blockBytes b) = b :=
  Block.ext_byte fun i => by
    rw [blockOf, Block.byte_ofBytes]
    simp [blockBytes, Block.byte]

theorem blockBytes_blockOf {l : List Byte} (h : l.length = 16) : blockBytes (blockOf l) = l :=
  List.ext_getElem (by simp [h]) fun i _ hi => by simp [blockBytes, blockOf, Block.ofBytes, hi]

/-! ### Sixteen-byte chunks -/

theorem length_chunk_le (s : List Byte) (j : Nat) : (chunk s j).length ≤ 16 := List.length_take_le 16 _

theorem length_chunk_of_le {s : List Byte} {j : Nat} (h : 16 * (j + 1) ≤ s.length) : (chunk s j).length = 16 := by
  rw [chunk, List.length_take, List.length_drop]
  omega

/-- One after the other, the first `m` chunks are the stream's first `16 * m` bytes. -/
theorem flatMap_chunk_range (s : List Byte) (m : Nat) : (List.range m).flatMap (chunk s) = s.take (16 * m) := by
  induction m with
  | zero => simp
  | succ m ih =>
    rw [List.range_succ, List.flatMap_append, ih, List.flatMap_singleton, Nat.mul_succ, List.take_add, chunk]

theorem length_flatMap_range {f : Nat → List Byte} (hf : ∀ j, (f j).length = 16) (m : Nat) :
    ((List.range m).flatMap f).length = 16 * m := by
  simp [List.length_flatMap, hf, Nat.mul_comm]

/-- Chunk `j` of sixteen-byte pieces put together is piece `j`. -/
theorem chunk_flatMap_range {f : Nat → List Byte} (hf : ∀ j, (f j).length = 16) {j m : Nat} (hj : j < m) :
    chunk ((List.range m).flatMap f) j = f j := by
  obtain ⟨k, rfl⟩ : ∃ k, m = j + (1 + k) := ⟨m - j - 1, by omega⟩
  rw [chunk, List.range_add, List.flatMap_append, List.drop_left' (length_flatMap_range hf j), List.range_add]
  simp only [List.map_append, List.flatMap_append, List.range_one, List.map_singleton, List.flatMap_singleton,
    Nat.add_zero]
  exact List.take_left' (hf j)

/-! ### PadFinal and Strip -/

theorem length_padFinal {ch : List Byte} (h : ch.length ≤ 16) : (padFinal ch).length = 16 := by
  unfold padFinal
  split
  · assumption
  · simp only [List.length_append, List.length_replicate, List.length_singleton]
    omega

/-- PadFinal appends only bytes that Strip removes (R322, R325). -/
theorem padFinal_eq_append (ch : List Byte) : ∃ t, padFinal ch = ch ++ t ∧ ∀ b ∈ t, stripped b = true := by
  unfold padFinal
  split
  · exact ⟨[], by simp, by simp⟩
  · refine ⟨List.replicate (16 - ch.length - 1) 0x00 ++ [0x01], List.append_assoc _ _ _, fun b hb => ?_⟩
    rw [List.mem_append, List.mem_singleton] at hb
    obtain hzero | rfl := hb
    · rw [List.eq_of_mem_replicate hzero]; rfl
    · rfl

/-- Strip is the library's removal of trailing elements. -/
theorem strip_eq_rdropWhile (s : List Byte) : strip s = s.rdropWhile stripped := rfl

theorem strip_append_of_stripped (s : List Byte) {t : List Byte} (ht : ∀ b ∈ t, stripped b = true) :
    strip (s ++ t) = strip s := by
  rw [strip, List.reverse_append, List.dropWhile_append_of_pos fun b hb => ht b (List.mem_reverse.mp hb), strip]

theorem strip_prefix (s : List Byte) : strip s <+: s := List.rdropWhile_prefix stripped s

theorem stripped_eq_false_iff (b : Byte) : stripped b = false ↔ b ≠ 0x00 ∧ b ≠ 0x01 := by
  simp [stripped]

theorem strip_eq_self_iff (s : List Byte) :
    strip s = s ↔ s = [] ∨ ∃ b, s.getLast? = some b ∧ b ≠ 0x00 ∧ b ≠ 0x01 := by
  rw [strip_eq_rdropWhile, List.rdropWhile_eq_self_iff]
  by_cases hs : s = []
  · simp [hs]
  · simp [hs, List.getLast?_eq_some_getLast hs, stripped_eq_false_iff]

/-! ### Framed blocks (R323) -/

theorem blockBytes_framedBlock_of_lt {s : List Byte} {j : Nat} (hj : j + 1 < chunkCount s.length) :
    blockBytes (framedBlock s j) = chunk s j := by
  rw [framedBlock, if_neg hj.ne, blockBytes_blockOf (length_chunk_of_le _)]
  unfold chunkCount at hj
  omega

theorem blockBytes_framedBlock_last {s : List Byte} {j : Nat} (hj : j + 1 = chunkCount s.length) :
    blockBytes (framedBlock s j) = padFinal (chunk s j) := by
  rw [framedBlock, if_pos hj, blockBytes_blockOf (length_padFinal (length_chunk_le s j))]

theorem le_sixteen_mul_chunkCount (n : Nat) : n ≤ 16 * chunkCount n := by
  unfold chunkCount
  omega

/-- The framed blocks hold the stream followed by bytes that Strip removes. -/
theorem flatMap_framedBlock_eq_append (s : List Byte) :
    ∃ t, (List.range (chunkCount s.length)).flatMap (fun j => blockBytes (framedBlock s j)) = s ++ t
      ∧ ∀ b ∈ t, stripped b = true := by
  have htake : s.take (16 * chunkCount s.length) = s := List.take_of_length_le (le_sixteen_mul_chunkCount _)
  cases hm : chunkCount s.length with
  | zero => exact ⟨[], by simpa [hm] using htake, by simp⟩
  | succ k =>
    obtain ⟨t, hpad, ht⟩ := padFinal_eq_append (chunk s k)
    refine ⟨t, ?_, ht⟩
    have hfull : (List.range k).flatMap (fun j => blockBytes (framedBlock s j)) = (List.range k).flatMap (chunk s) :=
      List.flatMap_congr fun j hj => blockBytes_framedBlock_of_lt <| by
        rw [hm]
        exact Nat.succ_lt_succ (List.mem_range.mp hj)
    calc (List.range (k + 1)).flatMap (fun j => blockBytes (framedBlock s j))
        = (List.range k).flatMap (chunk s) ++ padFinal (chunk s k) := by
          rw [List.range_succ, List.flatMap_append, List.flatMap_singleton, hfull, blockBytes_framedBlock_last hm.symm]
      _ = (List.range (k + 1)).flatMap (chunk s) ++ t := by
          rw [hpad, List.range_succ, List.flatMap_append, List.flatMap_singleton, List.append_assoc]
      _ = s ++ t := by rw [flatMap_chunk_range, ← hm, htake]

end Sys2Proof.Machine

/-! ## The framing functions (R323, R324, R326, R327) -/

namespace Sys2Proof.Machine

@[simp] theorem length_encryptBytes (rk : Schedule) (b : Block) : (encryptBytes rk b).length = 16 :=
  length_blockBytes _

@[simp] theorem length_decryptBytes (rk : Schedule) (b : Block) : (decryptBytes rk b).length = 16 :=
  length_blockBytes _

theorem decryptBytes_encryptBytes (rk : Schedule) (b : Block) :
    decryptBytes rk (blockOf (encryptBytes rk b)) = blockBytes b := by
  rw [decryptBytes, encryptBytes, blockOf_blockBytes, load_unload, invCipher_cipher, unload_load]

/-- The ciphertext of a stream: its framed blocks through the cipher, in order (R323). -/
def encryptedBlocks (rk : Schedule) (s : List Byte) : List Byte :=
  (List.range (chunkCount s.length)).flatMap fun j => encryptBytes rk (framedBlock s j)

/-- The chunks of a ciphertext through the inverse cipher, in order, before Strip (R324). -/
def decryptedBlocks (rk : Schedule) (c : List Byte) : List Byte :=
  (List.range (c.length / 16)).flatMap fun j => decryptBytes rk (blockOf (chunk c j))

theorem length_encryptedBlocks (rk : Schedule) (s : List Byte) :
    (encryptedBlocks rk s).length = 16 * chunkCount s.length :=
  length_flatMap_range (fun _ => length_encryptBytes rk _) _

theorem length_decryptedBlocks (rk : Schedule) (c : List Byte) :
    (decryptedBlocks rk c).length = 16 * (c.length / 16) :=
  length_flatMap_range (fun _ => length_decryptBytes rk _) _

theorem decryptedBlocks_encryptedBlocks (rk : Schedule) (s : List Byte) :
    decryptedBlocks rk (encryptedBlocks rk s) =
      (List.range (chunkCount s.length)).flatMap fun j => blockBytes (framedBlock s j) := by
  rw [decryptedBlocks, length_encryptedBlocks, Nat.mul_div_cancel_left _ (by omega)]
  refine List.flatMap_congr fun j hj => ?_
  rw [encryptedBlocks, chunk_flatMap_range (fun _ => length_encryptBytes rk _) (List.mem_range.mp hj),
    decryptBytes_encryptBytes]

theorem strip_decryptedBlocks_encryptedBlocks (rk : Schedule) (s : List Byte) :
    strip (decryptedBlocks rk (encryptedBlocks rk s)) = strip s := by
  obtain ⟨t, hblocks, ht⟩ := flatMap_framedBlock_eq_append s
  rw [decryptedBlocks_encryptedBlocks, hblocks, strip_append_of_stripped s ht]

/-- `encrypt_stream` answers exactly for a key of at most 16 bytes (R323). -/
theorem encryptStream_eq_ok_iff (s key out : List Byte) : encryptStream s key = .ok out ↔
    key.length ≤ 16 ∧ encryptedBlocks (streamSchedule key) s = out := by
  unfold encryptStream
  split
  next hkey => simp [Nat.not_le.mpr hkey]
  next hkey => simp [Nat.not_lt.mp hkey, encryptedBlocks]

/-- `decrypt_stream` answers exactly for such a key and a ciphertext of whole blocks (R324). -/
theorem decryptStream_eq_ok_iff (c key out : List Byte) : decryptStream c key = .ok out ↔
    key.length ≤ 16 ∧ c.length % 16 = 0 ∧ strip (decryptedBlocks (streamSchedule key) c) = out := by
  unfold decryptStream
  split
  next hkey => simp [Nat.not_le.mpr hkey]
  next hkey =>
    split
    next hc => simp [hc]
    next hc => simp [Nat.not_lt.mp hkey, not_not.mp hc, decryptedBlocks]

end Sys2Proof.Machine

namespace Sys2Proof

open Machine

/-- Settles O51: every block gives 16 bytes, and Strip only shortens. -/
theorem streamLengthsAreBlockMultiples : Obligations.StreamLengthsAreBlockMultiples := by
  intro s key out
  constructor
  · intro h
    obtain ⟨-, rfl⟩ := (encryptStream_eq_ok_iff s key out).mp h
    exact length_encryptedBlocks _ s
  · intro h
    obtain ⟨-, -, rfl⟩ := (decryptStream_eq_ok_iff s key out).mp h
    calc (strip (decryptedBlocks (streamSchedule key) s)).length
        ≤ (decryptedBlocks (streamSchedule key) s).length := (strip_prefix _).length_le
      _ = 16 * (s.length / 16) := length_decryptedBlocks _ s
      _ ≤ s.length := Nat.mul_div_le _ _

/-- Settles O52: block by block the inverse cipher undoes the cipher, which leaves the stream followed by its
padding, and Strip removes the padding. -/
theorem streamRoundTripIsStrip : Obligations.StreamRoundTripIsStrip := by
  intro s key hkey
  refine ⟨encryptedBlocks (streamSchedule key) s, (encryptStream_eq_ok_iff _ _ _).mpr ⟨hkey, rfl⟩,
    (decryptStream_eq_ok_iff _ _ _).mpr ⟨hkey, ?_, strip_decryptedBlocks_encryptedBlocks _ s⟩, strip_prefix s,
    strip_eq_self_iff s⟩
  rw [length_encryptedBlocks, Nat.mul_mod_right]

end Sys2Proof

/-! ## How a command ends (R406 to R409) -/

namespace Sys2Proof.Machine

theorem raise_sameButErr (kind : ErrorKind) (val : Nat) (op : Byte) (s : State) :
    s.sameButErr (raise kind val op s) := rfl

theorem succeed_errClear (s : State) : (succeed s).errClear := ⟨rfl, rfl, rfl⟩

end Sys2Proof.Machine

namespace Sys2Proof

open Machine

/-- Settles O20: a command either raises, which writes ERR alone, or succeeds, which clears ERR after effects that
leave KEY, DIN, CMD, BUSY and the host's lists alone. -/
theorem commandsCompleteOrChangeOnlyErr : Obligations.CommandsCompleteOrChangeOnlyErr := by
  intro i s
  rcases exec_cases i s with ⟨kind, val, hexec, -⟩ | ⟨t, hexec, hframe, -⟩
  · exact ⟨_, hexec, .inr ⟨raise_errKind_ne_zero kind val _ s, raise_sameButErr kind val _ s⟩, rfl⟩
  · exact ⟨_, hexec, .inl (succeed_errClear t), congrArg succeed hframe⟩

/-- Settles O21: a rejected word raises at decode. The operand checks raise without reading KS_VALID, and past them
the schedule check does. -/
theorem errorsAreReportedInOrder : Obligations.ErrorsAreReportedInOrder := by
  intro s
  refine ⟨fun w r hreject => ?decode, fun n hgt _ => ?keyLength, fun n _ hne => ?blockLength,
    fun n hgt _ => ?roundIndex, fun hinvalid => ?schedule⟩
  case decode =>
    rw [runCommand_of_reject hreject, opField_eq_ofNat]
    rfl
  case keyLength => exact exec_expandKey_of_gt hgt s
  case blockLength => exact ⟨exec_encrypt_of_ne hne s, exec_decrypt_of_ne hne s, exec_loadState_of_ne hne s⟩
  case roundIndex => exact exec_addRoundKey_of_ge hgt s
  case schedule =>
    exact ⟨exec_encrypt_of_invalid hinvalid, exec_decrypt_of_invalid hinvalid,
      fun n hle => exec_addRoundKey_of_invalid hinvalid (Nat.lt_succ_of_le hle)⟩

end Sys2Proof

/-! ## Accesses while BUSY = 1, and why no run reaches it (R457, R458) -/

namespace Sys2Proof.Machine

/-! ### Accesses while BUSY = 1 -/

theorem accessRefusal_read_status (s : State) : accessRefusal (Reg.offset .status) 4 true s = none := by
  simp [accessRefusal, Reg.offset]

theorem accessRefusal_read_of_busy {off : Offset} {s : State} (h4 : off.toNat % 4 = 0) (hb : s.busy = true)
    (hne : off ≠ Reg.offset .status) : accessRefusal off 4 true s = some .accessWhileBusy := by
  simp [accessRefusal, h4, hb, hne]

theorem accessRefusal_write_of_busy {off : Offset} {s : State} (h4 : off.toNat % 4 = 0) (hb : s.busy = true) :
    accessRefusal off 4 false s = some .accessWhileBusy := by
  simp [accessRefusal, h4, hb]

theorem perform_read_of_busy {off : Offset} {s : State} (h4 : off.toNat % 4 = 0) (hb : s.busy = true)
    (hne : off ≠ Reg.offset .status) (claim : Option Word) :
    perform (.read off 4 claim) s = .refused .accessWhileBusy := by
  simp [perform, accessRefusal_read_of_busy h4 hb hne]

theorem perform_write_of_busy {off : Offset} {s : State} (h4 : off.toNat % 4 = 0) (hb : s.busy = true)
    (v : Word) : perform (.write off 4 v) s = .refused .accessWhileBusy := by
  simp [perform, accessRefusal_write_of_busy h4 hb]

theorem step_read_of_busy {s : State} {off : Offset} {claim : Option Word} {rest : List HostAction}
    (hp : s.pending = .read off 4 claim :: rest) (hb : s.busy = true) (h4 : off.toNat % 4 = 0)
    (hne : off ≠ Reg.offset .status) : step s = .refused .accessWhileBusy := by
  rw [step_cons hp]
  exact perform_read_of_busy (s := { s with pending := rest }) h4 hb hne claim

theorem step_write_of_busy {s : State} {off : Offset} {v : Word} {rest : List HostAction}
    (hp : s.pending = .write off 4 v :: rest) (hb : s.busy = true) (h4 : off.toNat % 4 = 0) :
    step s = .refused .accessWhileBusy := by
  rw [step_cons hp]
  exact perform_write_of_busy (s := { s with pending := rest }) h4 hb v

/-- A read of STATUS draws no free value (R41, R48). -/
theorem observe_status (claim : Option Word) (s : State) : observe (Reg.offset .status) claim s =
    { s with observed := s.observed ++ [⟨Reg.offset .status, statusWord s, claim⟩] } := rfl

/-- A read of STATUS is answered in every state, a busy one too (R458). -/
theorem step_read_status {s : State} {claim : Option Word} {rest : List HostAction}
    (hp : s.pending = .read (Reg.offset .status) 4 claim :: rest) :
    step s = .next (observe (Reg.offset .status) claim { s with pending := rest }) := by
  rw [step_cons hp, perform, accessRefusal_read_status]

/-! ### Everything a host action and a step can do when they answer -/

theorem perform_next_cases {a : HostAction} {s t : State} (h : perform a s = .next t) :
    (∃ off size claim, a = .read off size claim ∧ accessRefusal off size true s = none ∧ t = observe off claim s)
    ∨ (∃ off size v, a = .write off size v ∧ accessRefusal off size false s = none ∧ memWrite off v s = .next t)
    ∨ (a = .wait ∧ t = waitOnce s)
    ∨ (a = .reset ∧ t = coreReset s) := by
  cases a with
  | read off size claim =>
    cases hr : accessRefusal off size true s with
    | some r => simp [perform, hr] at h
    | none => exact .inl ⟨off, size, claim, rfl, hr, by simpa [perform, hr] using h.symm⟩
  | write off size v =>
    cases hr : accessRefusal off size false s with
    | some r => simp [perform, hr] at h
    | none => exact .inr (.inl ⟨off, size, v, rfl, hr, by simpa [perform, hr] using h⟩)
  | wait => exact .inr (.inr (.inl ⟨rfl, (Host.Outcome.next.inj h).symm⟩))
  | reset => exact .inr (.inr (.inr ⟨rfl, (Host.Outcome.next.inj h).symm⟩))

theorem step_next_cases {s t : State} (h : step s = .next t) :
    (s.pending = [] ∧ t = s)
    ∨ ∃ a rest, s.pending = a :: rest ∧ perform a { s with pending := rest } = .next t := by
  cases hp : s.pending with
  | nil => exact .inl ⟨rfl, (Host.Outcome.next.inj ((step_nil hp).symm.trans h)).symm⟩
  | cons a rest => exact .inr ⟨a, rest, rfl, (step_cons hp).symm.trans h⟩

/-! ### BUSY is never raised (R457) -/

theorem exec_busy {i : Instr} {s t : State} (h : exec i s = .next t) : t.busy = s.busy := by
  obtain ⟨u, hu, -, hframe⟩ := commandsCompleteOrChangeOnlyErr i s
  obtain rfl : u = t := Host.Outcome.next.inj (hu.symm.trans h)
  rw [hframe]

theorem runCommand_busy {w : Word} {s t : State} (h : runCommand w s = .next t) : t.busy = s.busy := by
  cases hd : decode w with
  | ok i =>
    rw [runCommand_of_decode hd] at h
    exact (exec_busy h).trans rfl
  | error r =>
    rw [runCommand_of_reject hd] at h
    obtain rfl := Host.Outcome.next.inj h
    rfl

theorem memWrite_busy {off : Offset} {v : Word} {s t : State} (h : memWrite off v s = .next t) :
    t.busy = s.busy := by
  rcases memWrite_cases off v s with hw | ⟨k, hw⟩ | ⟨d, hw⟩ | ⟨-, hw⟩ <;> rw [hw] at h
  case inr.inr.inr => exact runCommand_busy h
  all_goals
    obtain rfl := Host.Outcome.next.inj h
    rfl

@[simp] theorem waitOnce_busy (s : State) : (waitOnce s).busy = s.busy := by
  unfold waitOnce
  dsimp only
  split <;> rfl

theorem perform_keeps_idle {a : HostAction} {s t : State} (hb : s.busy = false) (h : perform a s = .next t) :
    t.busy = false := by
  rcases perform_next_cases h with ⟨off, _, claim, -, -, rfl⟩ | ⟨off, _, v, -, -, hw⟩ | ⟨-, rfl⟩ | ⟨-, rfl⟩
  · exact (observe_busy off claim s).trans hb
  · exact (memWrite_busy hw).trans hb
  · exact (waitOnce_busy s).trans hb
  · exact coreReset_busy s

theorem step_keeps_idle {s t : State} (hb : s.busy = false) (h : step s = .next t) : t.busy = false := by
  rcases step_next_cases h with ⟨-, rfl⟩ | ⟨a, rest, -, hperform⟩
  · exact hb
  · exact perform_keeps_idle (s := { s with pending := rest }) hb hperform

theorem Reachable.idle {s : State} (h : Reachable s) : s.busy = false := by
  induction h with
  | start acts => rfl
  | next _ hs ih => exact step_keeps_idle ih hs

end Sys2Proof.Machine

namespace Sys2Proof

open Machine

/-- Settles O15: a busy state's refusal check lets only the STATUS read pass, whose word shows BUSY. Reset clears BUSY
and no step raises it. -/
theorem busyBlockAnswersOnlyStatusReads : Obligations.BusyBlockAnswersOnlyStatusReads := by
  refine ⟨fun s rest off v claim hb h4 => ⟨fun hp => ?write, fun hp hne => ?otherRead, fun hp hoff => ?statusRead⟩,
    fun s hs => hs.idle⟩
  case write => exact step_write_of_busy hp hb h4
  case otherRead =>
    have hoff : off ≠ Reg.offset .status := fun heq => hne (congrArg BitVec.toNat heq)
    exact step_read_of_busy hp hb h4 hoff
  case statusRead =>
    obtain rfl : off = Reg.offset .status := BitVec.eq_of_toNat_eq hoff
    exact ⟨_, statusWord s, step_read_status hp, observe_status claim _, (statusWord_busy s).trans hb⟩

end Sys2Proof

/-! ## The encoder and the decoder undo each other (R121 to R125) -/

namespace Sys2Proof

/-- Every command's word is selected by the row of R124 that builds the command back. -/
theorem encodesInItsRow (i : Instr) : Laws.EncodesInItsRow.Statement i := by
  cases i with
  | nop => exact Laws.EncodesInItsRow.nop
  | expandKey len => exact Laws.EncodesInItsRow.expandKey len
  | encrypt len => exact Laws.EncodesInItsRow.encrypt len
  | decrypt len => exact Laws.EncodesInItsRow.decrypt len
  | loadState len => exact Laws.EncodesInItsRow.loadState len
  | storeState => exact Laws.EncodesInItsRow.storeState
  | subBytes => exact Laws.EncodesInItsRow.subBytes
  | invSubBytes => exact Laws.EncodesInItsRow.invSubBytes
  | shiftRows => exact Laws.EncodesInItsRow.shiftRows
  | invShiftRows => exact Laws.EncodesInItsRow.invShiftRows
  | mixColumns => exact Laws.EncodesInItsRow.mixColumns
  | invMixColumns => exact Laws.EncodesInItsRow.invMixColumns
  | addRoundKey k => exact Laws.EncodesInItsRow.addRoundKey k
  | gfMul02 arg => exact Laws.EncodesInItsRow.gfMul02 arg
  | gfMul03 arg => exact Laws.EncodesInItsRow.gfMul03 arg
  | gfMul09 arg => exact Laws.EncodesInItsRow.gfMul09 arg
  | gfMul0b arg => exact Laws.EncodesInItsRow.gfMul0b arg
  | gfMul0d arg => exact Laws.EncodesInItsRow.gfMul0d arg
  | gfMul0e arg => exact Laws.EncodesInItsRow.gfMul0e arg
  | sbox arg => exact Laws.EncodesInItsRow.sbox arg
  | invSbox arg => exact Laws.EncodesInItsRow.invSbox arg

theorem decode_encode {i : Instr} (hwf : i.wellFormed = true) : decode (encode i) = .ok i := by
  obtain ⟨-, row, hm, hs, hbuild⟩ := encodesInItsRow i hwf
  rw [decode_of_row hm hs, hbuild]

/-- Settles O4: the command's word is selected by a row that builds the command back, and no other row selects it. -/
theorem decodeOfEncodeIsTheCommand : Obligations.DecodeOfEncodeIsTheCommand :=
  fun _ hwf => decode_encode hwf

/-! ### A row leaves no bit of its words unread

A row compares each field of a word with its pattern, or reads it as an operand. So a word that a row selects is the
command word of the pattern's fields and the operand read. -/

theorem commandWord_lenField_of_and {w : Word} {op : Byte} (h : w &&& 0xFFE0FFFF = commandWord 0 0 0 op) :
    commandWord 0 (BitVec.ofNat 5 (lenField w)) 0 op = w := by
  rw [ofNat_lenField]
  obtain ⟨h28, h24, h21, h8, h0⟩ : w.extractLsb' 28 4 = 0 ∧ w.extractLsb' 24 4 = 0 ∧ w.extractLsb' 21 3 = 0
      ∧ w.extractLsb' 8 8 = 0 ∧ w.extractLsb' 0 8 = op := by
    simpa [and_eq_iff_fields, commandWord_fields] using h
  apply word_ext <;> simp [commandWord_fields, *]

theorem commandWord_idxField_of_and {w : Word} {op : Byte} (h : w &&& 0xF0FFFFFF = commandWord 0 0 0 op) :
    commandWord (BitVec.ofNat 4 (idxField w)) 0 0 op = w := by
  rw [ofNat_idxField]
  obtain ⟨h28, h21, h16, h8, h0⟩ : w.extractLsb' 28 4 = 0 ∧ w.extractLsb' 21 3 = 0 ∧ w.extractLsb' 16 5 = 0
      ∧ w.extractLsb' 8 8 = 0 ∧ w.extractLsb' 0 8 = op := by
    simpa [and_eq_iff_fields, commandWord_fields] using h
  apply word_ext <;> simp [commandWord_fields, *]

theorem commandWord_argField_of_and {w : Word} {idx : BitVec 4} {op : Byte}
    (h : w &&& 0xFFFF00FF = commandWord idx 0 0 op) : commandWord idx 0 (argField w) op = w := by
  obtain ⟨h28, h24, h21, h16, h0⟩ : w.extractLsb' 28 4 = 0 ∧ w.extractLsb' 24 4 = idx ∧ w.extractLsb' 21 3 = 0
      ∧ w.extractLsb' 16 5 = 0 ∧ w.extractLsb' 0 8 = op := by
    simpa [and_eq_iff_fields, commandWord_fields] using h
  apply word_ext <;> simp [argField, commandWord_fields, *]

/-- What a row builds from a word it selects is well-formed, and has that word as its only one. -/
def OpcodeRow.EncodesBack (row : OpcodeRow) : Prop :=
  ∀ w : Word, row.selects w = true → (row.build w).wellFormed = true ∧ encode (row.build w) = w

theorem OpcodeRow.EncodesBack.of_noOperand {name : String} {p : Word} {i : Instr} (hwf : i.wellFormed = true)
    (he : encode i = p) : (OpcodeRow.mk name p 0xFFFFFFFF fun _ => i).EncodesBack := fun _ hs =>
  ⟨hwf, he.trans ((beq_iff_eq.mp hs).symm.trans BitVec.and_allOnes)⟩

theorem OpcodeRow.EncodesBack.of_len {name : String} (op : Byte) (build : Nat → Instr)
    (hwf : ∀ len < 32, (build len).wellFormed = true)
    (he : ∀ len, encode (build len) = commandWord 0 (BitVec.ofNat 5 len) 0 op) :
    (OpcodeRow.mk name (commandWord 0 0 0 op) 0xFFE0FFFF fun w => build (lenField w)).EncodesBack := fun w hs =>
  ⟨hwf _ (lenField_lt w), (he _).trans (commandWord_lenField_of_and (beq_iff_eq.mp hs))⟩

theorem OpcodeRow.EncodesBack.of_idx {name : String} (op : Byte) (build : Nat → Instr)
    (hwf : ∀ k < 16, (build k).wellFormed = true)
    (he : ∀ k, encode (build k) = commandWord (BitVec.ofNat 4 k) 0 0 op) :
    (OpcodeRow.mk name (commandWord 0 0 0 op) 0xF0FFFFFF fun w => build (idxField w)).EncodesBack := fun w hs =>
  ⟨hwf _ (idxField_lt w), (he _).trans (commandWord_idxField_of_and (beq_iff_eq.mp hs))⟩

theorem OpcodeRow.EncodesBack.of_arg {name : String} (idx : BitVec 4) (op : Byte) (build : Byte → Instr)
    (hwf : ∀ arg, (build arg).wellFormed = true) (he : ∀ arg, encode (build arg) = commandWord idx 0 arg op) :
    (OpcodeRow.mk name (commandWord idx 0 0 op) 0xFFFF00FF fun w => build (argField w)).EncodesBack := fun _ hs =>
  ⟨hwf _, (he _).trans (commandWord_argField_of_and (beq_iff_eq.mp hs))⟩

/-- In R124's order: four rows read LEN, one reads IDX, the last eight read ARG, the others read no operand. -/
theorem opcodeRows_encodeBack : ∀ row ∈ opcodeRows, row.EncodesBack :=
  List.forall_iff_forall_mem.mp
    ⟨.of_noOperand rfl rfl,
      .of_len opExpandKey .expandKey (fun _ => decide_eq_true) fun _ => rfl,
      .of_len opEncrypt .encrypt (fun _ => decide_eq_true) fun _ => rfl,
      .of_len opDecrypt .decrypt (fun _ => decide_eq_true) fun _ => rfl,
      .of_len opLoadState .loadState (fun _ => decide_eq_true) fun _ => rfl,
      .of_noOperand rfl rfl, .of_noOperand rfl rfl, .of_noOperand rfl rfl, .of_noOperand rfl rfl,
      .of_noOperand rfl rfl, .of_noOperand rfl rfl, .of_noOperand rfl rfl,
      .of_idx opAddRoundKey .addRoundKey (fun _ => decide_eq_true) fun _ => rfl,
      .of_arg 0x2 opGfMul .gfMul02 (fun _ => rfl) fun _ => rfl,
      .of_arg 0x3 opGfMul .gfMul03 (fun _ => rfl) fun _ => rfl,
      .of_arg 0x9 opGfMul .gfMul09 (fun _ => rfl) fun _ => rfl,
      .of_arg 0xB opGfMul .gfMul0b (fun _ => rfl) fun _ => rfl,
      .of_arg 0xD opGfMul .gfMul0d (fun _ => rfl) fun _ => rfl,
      .of_arg 0xE opGfMul .gfMul0e (fun _ => rfl) fun _ => rfl,
      .of_arg 0 opSbox .sbox (fun _ => rfl) fun _ => rfl,
      .of_arg 0 opInvSbox .invSbox (fun _ => rfl) fun _ => rfl⟩

theorem encode_of_decode {w : Word} {i : Instr} (h : decode w = .ok i) : i.wellFormed = true ∧ encode i = w := by
  obtain ⟨row, hm, hs, rfl⟩ := row_of_decode h
  exact opcodeRows_encodeBack row hm w hs

/-- Settles O5: the row that selects the word leaves none of its bits unread. -/
theorem encodeOfDecodeIsTheWord : Obligations.EncodeOfDecodeIsTheWord :=
  fun _ _ h => encode_of_decode h

/-- Settles O6: the rows conflict pairwise, so the map's search for a row that selects the word finds both. -/
theorem noTwoRowsMatchOneWord : Obligations.NoTwoRowsMatchOneWord := by
  intro w row row' hm hm' hs hs'
  have hfind : some row = some row' :=
    (find_row rows_conflict_pairwise hm hs).symm.trans (find_row rows_conflict_pairwise hm' hs')
  exact congrArg OpcodeRow.mnemonic (Option.some.inj hfind)

/-- Settles O1: seven closed words, each run through the decoder. -/
theorem writtenOutWordsDecode : Obligations.WrittenOutWordsDecode := by
  unfold Obligations.WrittenOutWordsDecode
  decide

end Sys2Proof

/-! ## Which steps write the schedule (R36, R38) -/

namespace Sys2Proof.Machine

theorem exec_answers (i : Instr) (s : State) : ∃ t, exec i s = .next t := by
  obtain ⟨t, ht, -⟩ := commandsCompleteOrChangeOnlyErr i s
  exact ⟨t, ht⟩

/-- `t` holds the schedule of `s`. -/
def State.sameSchedule (s t : State) : Prop := t.rk = s.rk ∧ t.ksValid = s.ksValid

/-- `t` holds the schedule that an EXPAND_KEY of length `len` leaves (R247). -/
def State.expands (s t : State) (len : Nat) : Prop :=
  len ≤ 16 ∧ t.rk = keyExpansion s.key len ∧ t.ksValid = true

theorem exec_schedule_cases {i : Instr} {s t : State} (h : exec i s = .next t) :
    s.sameSchedule t ∨ ∃ len, i = .expandKey len ∧ s.expands t len := by
  rcases exec_cases i s with ⟨_, _, hexec, -⟩ | ⟨u, hexec, -, hsched⟩
  · obtain rfl := Host.Outcome.next.inj (hexec.symm.trans h)
    exact .inl ⟨rfl, rfl⟩
  · obtain rfl := Host.Outcome.next.inj (hexec.symm.trans h)
    exact hsched.imp id fun ⟨len, hle, hi, hrk, hks⟩ => ⟨len, hi, hle, hrk, hks⟩

theorem runCommand_schedule_cases {w : Word} {s t : State} (h : runCommand w s = .next t) :
    s.sameSchedule t ∨ ∃ len, decode w = .ok (.expandKey len) ∧ s.expands t len := by
  cases hd : decode w with
  | ok i =>
    rw [runCommand_of_decode hd] at h
    exact (exec_schedule_cases h).imp id fun ⟨len, hi, hexp⟩ => ⟨len, congrArg _ hi, hexp⟩
  | error r =>
    rw [runCommand_of_reject hd] at h
    obtain rfl := Host.Outcome.next.inj h
    exact .inl ⟨rfl, rfl⟩

theorem memWrite_schedule_cases {off : Offset} {w : Word} {s t : State} (h : memWrite off w s = .next t) :
    s.sameSchedule t
    ∨ ∃ len, off = Reg.offset .cmd ∧ decode w = .ok (.expandKey len) ∧ s.expands t len := by
  rcases memWrite_cases off w s with hw | ⟨k, hw⟩ | ⟨d, hw⟩ | ⟨hoff, hw⟩ <;> rw [hw] at h
  case inr.inr.inr => exact (runCommand_schedule_cases h).imp id fun ⟨len, hrest⟩ => ⟨len, hoff, hrest⟩
  all_goals
    obtain rfl := Host.Outcome.next.inj h
    exact .inl ⟨rfl, rfl⟩

theorem accessRefusal_eq_none_size {off : Offset} {size : Nat} {isRead : Bool} {s : State}
    (h : accessRefusal off size isRead s = none) : size = 4 := by
  by_contra hne
  simp [accessRefusal, hne] at h

/-- `wait` touches the host's lists alone (R130, R457). -/
theorem waitOnce_frame (s : State) : ∃ p o, waitOnce s = { s with pending := p, observed := o } := by
  unfold waitOnce
  dsimp only
  split <;> exact ⟨_, _, rfl⟩

/-- A step keeps the schedule, runs an EXPAND_KEY, or is a reset. -/
theorem step_schedule_cases {s t : State} (h : step s = .next t) :
    s.sameSchedule t
    ∨ (∃ rest w len, s.pending = .write (Reg.offset .cmd) 4 w :: rest ∧ decode w = .ok (.expandKey len)
        ∧ s.expands t len)
    ∨ (s.pending.head? = some .reset ∧ t.ksValid = false) := by
  rcases step_next_cases h with ⟨-, rfl⟩ | ⟨a, rest, hp, hperform⟩
  · exact .inl ⟨rfl, rfl⟩
  rcases perform_next_cases hperform with
    ⟨off, _, claim, -, -, rfl⟩ | ⟨off, size, w, rfl, hok, hw⟩ | ⟨-, rfl⟩ | ⟨rfl, rfl⟩
  · exact .inl ⟨rfl, rfl⟩
  · rcases memWrite_schedule_cases hw with hsame | ⟨len, rfl, hd, hexp⟩
    · exact .inl hsame
    · obtain rfl := accessRefusal_eq_none_size hok
      exact .inr (.inl ⟨rest, w, len, hp, hd, hexp⟩)
  · obtain ⟨p, o, hwait⟩ := waitOnce_frame { s with pending := rest }
    rw [hwait]
    exact .inl ⟨rfl, rfl⟩
  · exact .inr (.inr ⟨by rw [hp]; rfl, rfl⟩)

end Sys2Proof.Machine

namespace Sys2Proof

open Machine

/-- Settles O22: a step that is no reset keeps the schedule or runs an EXPAND_KEY, which sets KS_VALID. -/
theorem onlyExpandKeyWritesTheSchedule : Obligations.OnlyExpandKeyWritesTheSchedule := by
  intro s t h hreset
  rcases step_schedule_cases h with ⟨hrk, hks⟩ | ⟨rest, w, len, hp, hd, hle, -, hks⟩ | ⟨hhead, -⟩
  · exact ⟨fun hvalid => hks.trans hvalid, fun hchange => absurd hchange (by simp [hrk, hks])⟩
  · exact ⟨fun _ => hks, fun _ => ⟨rest, w, len, hp, hd, hle⟩⟩
  · exact absurd hhead hreset

end Sys2Proof

/-! ## The invariant: reset meets it and every step keeps it (R37, R400, R406, R457) -/

namespace Sys2Proof.Machine

/-- The invariant's part about ERR. -/
def State.errSound (s : State) : Prop := s.errLegal ∧ s.errNamesCmd

theorem errSound_of_errClear {s : State} (h : s.errClear) : s.errSound :=
  ⟨.inl h, fun hraised => absurd h.1 hraised⟩

theorem lt_32_of_blockCommand_wellFormed {i : Instr} {val : Nat}
    (hi : i = .encrypt val ∨ i = .decrypt val ∨ i = .loadState val) (hwf : i.wellFormed = true) : val < 32 := by
  rcases hi with rfl | rfl | rfl <;> exact of_decide_eq_true hwf

/-- The value a well-formed command raises fits ERR_VAL, where it still shows what was wrong with it (R400). -/
theorem raise_errLegal {i : Instr} {kind : ErrorKind} {val : Nat} (hraises : Raises i kind val)
    (hwf : i.wellFormed = true) (op : Byte) (s : State) : (raise kind val op s).errLegal := by
  rcases hraises with ⟨rfl, hgt, rfl⟩ | ⟨rfl, hne, hi⟩ | ⟨rfl, rfl⟩ | ⟨rfl, hgt, rfl⟩
  · have hlt : val < 32 := of_decide_eq_true hwf
    refine .inr (.inl ⟨rfl, ?_⟩)
    rw [raise_errVal, BitVec.toNat_ofNat]
    omega
  · have hlt : val < 32 := lt_32_of_blockCommand_wellFormed hi hwf
    refine .inr (.inr (.inl ⟨rfl, ?_⟩))
    rw [raise_errVal, BitVec.toNat_ofNat]
    omega
  · exact .inr (.inr (.inr (.inr (.inl ⟨rfl, rfl⟩))))
  · have hlt : val < 16 := of_decide_eq_true hwf
    refine .inr (.inr (.inr (.inr (.inr ⟨rfl, ?_⟩))))
    rw [raise_errVal, BitVec.toNat_ofNat]
    omega

/-- Whatever ERR held before, a write to CMD leaves it legal and naming the word written. -/
theorem runCommand_errSound {w : Word} {s t : State} (h : runCommand w s = .next t) : t.errSound := by
  cases hd : decode w with
  | error r =>
    rw [runCommand_of_reject hd] at h
    obtain rfl := Host.Outcome.next.inj h
    exact ⟨.inr (.inr (.inr (.inl ⟨rfl, rfl⟩))), fun _ => rfl⟩
  | ok i =>
    rw [runCommand_of_decode hd] at h
    obtain ⟨hwf, hencode⟩ := encode_of_decode hd
    rcases exec_cases i { s with cmd := w } with ⟨kind, val, hexec, hraises⟩ | ⟨u, hexec, -⟩
    · obtain rfl := Host.Outcome.next.inj (hexec.symm.trans h)
      exact ⟨raise_errLegal hraises hwf _ _, fun _ => congrArg opField hencode⟩
    · obtain rfl := Host.Outcome.next.inj (hexec.symm.trans h)
      exact errSound_of_errClear (succeed_errClear u)

theorem memWrite_keeps_errSound {off : Offset} {w : Word} {s t : State} (hs : s.errSound)
    (h : memWrite off w s = .next t) : t.errSound := by
  rcases memWrite_cases off w s with hw | ⟨k, hw⟩ | ⟨d, hw⟩ | ⟨-, hw⟩ <;> rw [hw] at h
  case inr.inr.inr => exact runCommand_errSound h
  all_goals
    obtain rfl := Host.Outcome.next.inj h
    exact hs

theorem perform_keeps_errSound {a : HostAction} {s t : State} (hs : s.errSound) (h : perform a s = .next t) :
    t.errSound := by
  rcases perform_next_cases h with ⟨_, _, _, -, -, rfl⟩ | ⟨_, _, _, -, -, hw⟩ | ⟨-, rfl⟩ | ⟨-, rfl⟩
  · exact hs
  · exact memWrite_keeps_errSound hs hw
  · obtain ⟨p, o, hwait⟩ := waitOnce_frame s
    rw [hwait]
    exact hs
  · exact errSound_of_errClear ⟨rfl, rfl, rfl⟩

theorem step_keeps_errSound {s t : State} (hs : s.errSound) (h : step s = .next t) : t.errSound := by
  rcases step_next_cases h with ⟨-, rfl⟩ | ⟨a, rest, -, hperform⟩
  · exact hs
  · exact perform_keeps_errSound (s := { s with pending := rest }) hs hperform

theorem step_keeps_scheduleExpanded {s t : State} (hs : s.scheduleExpanded) (h : step s = .next t) :
    t.scheduleExpanded := by
  intro hvalid
  rcases step_schedule_cases h with ⟨hrk, hks⟩ | ⟨_, _, len, -, -, hle, hrk, -⟩ | ⟨-, hks⟩
  · rw [hrk]
    exact hs (hks.symm.trans hvalid)
  · exact ⟨s.key, len, hle, hrk⟩
  · rw [hks] at hvalid
    cases hvalid

theorem step_keeps_inv {s t : State} (hs : Inv s) (h : step s = .next t) : Inv t := by
  obtain ⟨hidle, hlegal, hnames, hsched⟩ := hs
  obtain ⟨hlegal', hnames'⟩ := step_keeps_errSound ⟨hlegal, hnames⟩ h
  exact ⟨step_keeps_idle hidle h, hlegal', hnames', step_keeps_scheduleExpanded hsched h⟩

/-- After reset, whatever accesses the host has still to make. -/
theorem inv_reset (acts : List HostAction) : Inv { State.reset with pending := acts } :=
  ⟨rfl, .inl ⟨rfl, rfl, rfl⟩, fun hraised => absurd rfl hraised, fun hvalid => absurd hvalid Bool.false_ne_true⟩

theorem Reachable.inv {s : State} (h : Reachable s) : Inv s := by
  induction h with
  | start acts => exact inv_reset acts
  | next _ hs ih => exact step_keeps_inv ih hs

theorem errKind_le_five_of_errLegal {s : State} (h : s.errLegal) : s.errKind.toNat ≤ 5 := by
  rcases h with ⟨hk, -⟩ | ⟨hk, -⟩ | ⟨hk, -⟩ | ⟨hk, -⟩ | ⟨hk, -⟩ | ⟨hk, -⟩ <;> rw [hk] <;> decide

/-! ### Accesses in the contract are answered (R81, R412) -/

theorem runCommand_answers (w : Word) (s : State) : ∃ t, runCommand w s = .next t := by
  cases hd : decode w with
  | ok i => simpa only [runCommand_of_decode hd] using exec_answers i _
  | error r => exact ⟨_, runCommand_of_reject hd s⟩

theorem memWrite_answers (off : Offset) (v : Word) (s : State) : ∃ t, memWrite off v s = .next t := by
  rcases memWrite_cases off v s with hw | ⟨k, hw⟩ | ⟨d, hw⟩ | ⟨-, hw⟩
  · exact ⟨_, hw⟩
  · exact ⟨_, hw⟩
  · exact ⟨_, hw⟩
  · rw [hw]
    exact runCommand_answers v s

theorem perform_answers {a : HostAction} {s : State} (hb : s.busy = false) (ha : a.inContract = true) :
    ∃ t, perform a s = .next t := by
  cases a with
  | read off size claim =>
    obtain ⟨rfl, h4⟩ : size = 4 ∧ off.toNat % 4 = 0 := by simpa [HostAction.inContract] using ha
    exact ⟨_, perform_read_idle h4 hb claim⟩
  | write off size v =>
    obtain ⟨rfl, h4⟩ : size = 4 ∧ off.toNat % 4 = 0 := by simpa [HostAction.inContract] using ha
    rw [perform_write_idle h4 hb]
    exact memWrite_answers off v s
  | wait => exact ⟨_, rfl⟩
  | reset => exact ⟨_, rfl⟩

theorem step_answers {s : State} {a : HostAction} {rest : List HostAction} (hp : s.pending = a :: rest)
    (hb : s.busy = false) (ha : a.inContract = true) : ∃ t, step s = .next t := by
  rw [step_cons hp]
  exact perform_answers (s := { s with pending := rest }) hb ha

/-- An idle state is refused a step only for an access outside the contract. -/
theorem not_inContract_of_refused {s : State} (hb : s.busy = false) {r : Refusal} (h : step s = .refused r) :
    ∃ a rest, s.pending = a :: rest ∧ a.inContract = false := by
  cases hp : s.pending with
  | nil => simp [step_nil hp] at h
  | cons a rest =>
    refine ⟨a, rest, rfl, Bool.eq_false_of_not_eq_true fun ha => ?_⟩
    obtain ⟨t, ht⟩ := step_answers hp hb ha
    simp [ht] at h

end Sys2Proof.Machine

namespace Sys2Proof

open Machine

/-- Settles O23: BUSY, ERR and the schedule are each kept by what a step can do to them. A raised error is legal since
the word written is the encoding of the command it decodes to. -/
theorem stepKeepsTheInvariant : Obligations.StepKeepsTheInvariant :=
  fun _ _ hs h => step_keeps_inv hs h

/-- Settles O24: with ERR 0 and KS_VALID 0 nothing is left to show. -/
theorem resetMeetsTheInvariant : Obligations.ResetMeetsTheInvariant :=
  inv_reset []

/-- Settles O19: the refusal check passes, and every access and every command answers. -/
theorem everyAllowedAccessIsAnswered : Obligations.EveryAllowedAccessIsAnswered :=
  fun _ _ _ hp hb ha => step_answers hp hb ha

/-- Settles O25: every state a run reaches meets the invariant, and an idle state is refused nothing else. -/
theorem runsStopOnlyAtContractBreaches : Obligations.RunsStopOnlyAtContractBreaches := by
  intro s hs
  obtain ⟨hidle, hlegal, -, -⟩ := hs.inv
  exact ⟨hidle, errKind_le_five_of_errLegal hlegal, fun _ hrefused => not_inContract_of_refused hidle hrefused⟩

end Sys2Proof

/-! ## Accesses outside the contract (R81) -/

namespace Sys2Proof.Machine

theorem accessRefusal_of_size {size : Nat} (h : size ≠ 4) (off : Offset) (isRead : Bool) (s : State) :
    accessRefusal off size isRead s = some .accessWidth := by
  simp [accessRefusal, h]

theorem accessRefusal_of_misaligned {off : Offset} (h : off.toNat % 4 ≠ 0) (isRead : Bool) (s : State) :
    accessRefusal off 4 isRead s = some .misaligned := by
  simp [accessRefusal, h]

/-- A read and a write are refused alike when the check refuses both. -/
theorem step_refused_of_accessRefusal {s : State} {rest : List HostAction} {off : Offset} {size : Nat} {v : Word}
    {claim : Option Word} {r : Refusal}
    (hp : s.pending = .read off size claim :: rest ∨ s.pending = .write off size v :: rest)
    (hr : ∀ isRead s, accessRefusal off size isRead s = some r) : step s = .refused r := by
  rcases hp with hp | hp
  · rw [step_cons hp, perform, hr]
  · rw [step_cons hp, perform, hr]

end Sys2Proof.Machine

namespace Sys2Proof

open Machine

/-- Settles O14: the check reads the width, then the alignment, before it reads the state. -/
theorem accessesOutsideTheContractAreRefused : Obligations.AccessesOutsideTheContractAreRefused := by
  intro s rest off size v claim hp
  have hwidth (hsize : size ≠ 4) : step s = .refused .accessWidth :=
    step_refused_of_accessRefusal hp (accessRefusal_of_size hsize off)
  have halign (hsize : size = 4) (h4 : off.toNat % 4 ≠ 0) : step s = .refused .misaligned := by
    subst hsize
    exact step_refused_of_accessRefusal hp (accessRefusal_of_misaligned h4)
  refine ⟨fun hbreach => ?_, fun hsize _ => hwidth hsize, halign⟩
  by_cases hsize : size = 4
  · exact ⟨_, halign hsize (hbreach.resolve_left (not_not.mpr hsize))⟩
  · exact ⟨_, hwidth hsize⟩

end Sys2Proof

/-! ## LOAD_STATE 16 (R296) -/

namespace Sys2Proof.Machine

/-- What a step-mode command leaves: `m` in STATE, and ERR clear (R407). -/
def withMatrix (m : StateMatrix) (s : State) : State := succeed { s with st := m }

theorem exec_loadState_16 (s : State) : exec (.loadState 16) s = .next (withMatrix (load s.din) s) := by
  simp only [exec, execLoadState, requireBlockLength_16, complete_eq, withMatrix]

end Sys2Proof.Machine

/-! ## The register map, and what its registers read as (R39 to R49) -/

namespace Sys2Proof.Machine

/-- Every aligned offset in the two mapped ranges is a register's. -/
theorem exists_reg_offset {off : Offset} (h4 : off.toNat % 4 = 0)
    (h : off.toNat < 0x050 ∨ (0x100 ≤ off.toNat ∧ off.toNat < 0x1B0)) : ∃ reg : Reg, reg.offset.toNat = off.toNat := by
  simp only [offset_toNat]
  rcases h with hlo | ⟨hrk, hhi⟩
  · have hlane : off.toNat % 0x10 / 4 < 4 := by omega
    obtain hlow | hkey | hdin | hdout | hst : off.toNat / 0x10 = 0 ∨ off.toNat / 0x10 = 1 ∨ off.toNat / 0x10 = 2
        ∨ off.toNat / 0x10 = 3 ∨ off.toNat / 0x10 = 4 := by omega
    · obtain hr | hr | hr | hr : off.toNat = 0 ∨ off.toNat = 4 ∨ off.toNat = 8 ∨ off.toNat = 12 := by omega
      · exact ⟨.cmd, hr.symm⟩
      · exact ⟨.status, hr.symm⟩
      · exact ⟨.err, hr.symm⟩
      · exact ⟨.result, hr.symm⟩
    · exact ⟨.key ⟨_, hlane⟩, by dsimp only; omega⟩
    · exact ⟨.din ⟨_, hlane⟩, by dsimp only; omega⟩
    · exact ⟨.dout ⟨_, hlane⟩, by dsimp only; omega⟩
    · exact ⟨.st ⟨_, hlane⟩, by dsimp only; omega⟩
  · exact ⟨.rk ⟨(off.toNat - 0x100) / 4, by omega⟩, by dsimp only; omega⟩

/-- Which offsets hold no register (R39). -/
theorem regAt_eq_none_iff (off : Offset) : regAt off = none ↔
    off.toNat % 4 ≠ 0 ∨ (0x050 ≤ off.toNat ∧ off.toNat < 0x100) ∨ 0x1B0 ≤ off.toNat := by
  constructor
  · intro hnone
    by_contra hmapped
    obtain ⟨reg, hreg⟩ := exists_reg_offset (off := off) (by omega) (by omega)
    rw [regAt_of_toNat hreg.symm] at hnone
    cases hnone
  · rintro (h | h)
    · rw [regAt, if_pos h]
    · exact regAt_unmapped h

theorem writable_iff (reg : Reg) :
    reg.writable = true ↔ reg = .cmd ∨ (∃ i, reg = .key i) ∨ ∃ i, reg = .din i := by
  cases reg <;> simp [Reg.writable]

/-- A read names the register whose offset it is, or 0. -/
theorem memRead_cases (off : Offset) (s : State) :
    (∃ reg, off = Reg.offset reg ∧ memRead off s = readReg reg s) ∨ memRead off s = 0 := by
  cases hr : regAt off with
  | none => exact .inr (by rw [memRead, hr])
  | some reg =>
    obtain rfl := offset_of_regAt hr
    exact .inl ⟨reg, rfl, memRead_offset reg s⟩

theorem memRead_key {off : Offset} {i : Fin 4} (h : off.toNat = 0x010 + 4 * i) (s : State) :
    memRead off s = pack s.key i :=
  memRead_of_toNat (reg := .key i) (by rw [h, offset_toNat]) s

theorem memRead_din {off : Offset} {i : Fin 4} (h : off.toNat = 0x020 + 4 * i) (s : State) :
    memRead off s = pack s.din i :=
  memRead_of_toNat (reg := .din i) (by rw [h, offset_toNat]) s

theorem memRead_dout {off : Offset} {i : Fin 4} (h : off.toNat = 0x030 + 4 * i) (s : State) :
    memRead off s = pack s.dout i :=
  memRead_of_toNat (reg := .dout i) (by rw [h, offset_toNat]) s

theorem memRead_st {off : Offset} {c : Fin 4} (h : off.toNat = 0x040 + 4 * c) (s : State) :
    memRead off s = stateColumnWord s.st c :=
  memRead_of_toNat (reg := .st c) (by rw [h, offset_toNat]) s

theorem memRead_rk {off : Offset} {c : Fin 44} (h : off.toNat = 0x100 + 4 * c) {s : State}
    (hvalid : s.ksValid = true) : memRead off s = scheduleColumnWord s.rk c := by
  rw [memRead_of_toNat (reg := .rk c) (by rw [h, offset_toNat]), readReg, if_pos hvalid]

theorem pack_zero (i : Fin 4) : pack (Vector.replicate 16 0) i = 0 := by
  revert i
  decide

theorem stateColumnWord_zero (c : Fin 4) : stateColumnWord (Vector.replicate 4 (Vector.replicate 4 0)) c = 0 := by
  revert c
  decide

theorem readReg_reset (reg : Reg) (h : ∀ c, reg ≠ .rk c) : readReg reg State.reset = 0 := by
  cases reg with
  | cmd | status | err | result => rfl
  | key i | din i | dout i => exact pack_zero i
  | st c => exact stateColumnWord_zero c
  | rk c => exact absurd rfl (h c)

theorem memRead_reset {off : Offset} (h : off.toNat < 0x100 ∨ 0x1B0 ≤ off.toNat) : memRead off State.reset = 0 := by
  rcases memRead_cases off State.reset with ⟨reg, rfl, hread⟩ | hzero
  · rw [hread]
    refine readReg_reset reg fun c hc => ?_
    rw [hc, offset_toNat] at h
    dsimp only at h
    omega
  · exact hzero

theorem waitOnce_of_idle {s : State} (hb : s.busy = false) : waitOnce s = observe (Reg.offset .status) none s := by
  have hbit : (statusWord s).getLsbD 2 = false := (statusWord_busy s).trans hb
  rw [waitOnce, hbit]
  rfl

/-- Column `c` of a loaded block is packed as the block's word `c` (R83, R290). -/
theorem stateColumnWord_load (b : Block) (c : Fin 4) : stateColumnWord (load b) c = pack b c := by
  simp [stateColumnWord, pack, Nat.add_comm]

theorem pack_unload (m : StateMatrix) (c : Fin 4) : pack (unload m) c = stateColumnWord m c := by
  rw [← stateColumnWord_load, load_unload]

end Sys2Proof.Machine

namespace Sys2Proof

open Machine

/-- Settles O18: the map inverts the registers' offsets, and the ranges they leave hold none. -/
theorem registersLieAtTheirOffsets : Obligations.RegistersLieAtTheirOffsets :=
  ⟨regAt_offset .cmd, regAt_offset .status, regAt_offset .err, regAt_offset .result,
    fun i => ⟨regAt_offset (.key i), regAt_offset (.din i), regAt_offset (.dout i), regAt_offset (.st i)⟩,
    fun c => regAt_offset (.rk c), regAt_eq_none_iff, writable_iff⟩

/-- Settles O11: the step is `observe`, whose word is that of the register at the offset. -/
theorem hostReadReturnsTheRegister : Obligations.HostReadReturnsTheRegister := by
  intro s rest off claim hp hb h4
  refine ⟨_, memRead off s, step_read_idle hp hb h4, rfl, fun i j hoff => ?key, fun i j hoff => ?din,
    fun i j hoff => ?dout, fun c r hoff => ?st, fun c r hoff hvalid => ?rk, fun hoff => ?cmd, fun hoff => ?status,
    fun hoff => ?err, fun hoff => ?result, fun hoff => memRead_unmapped hoff s⟩
  case key => rw [memRead_key hoff, pack_lane]
  case din => rw [memRead_din hoff, pack_lane]
  case dout => rw [memRead_dout hoff, pack_lane]
  case st => rw [memRead_st hoff, stateColumnWord_lane]
  case rk => rw [memRead_rk hoff hvalid, scheduleColumnWord_lane]
  case cmd => exact memRead_of_toNat (reg := .cmd) hoff s
  case status => rw [memRead_of_toNat (reg := .status) hoff, readReg, statusWord_toNat, hb]; rfl
  case err => rw [memRead_of_toNat (reg := .err) hoff, readReg, errWord_toNat]
  case result => rw [memRead_of_toNat (reg := .result) hoff, readReg, resultWord_toNat]

/-- Settles O17: the offset is a KEY's or a DIN's, whose four bytes the step replaces by the word's. -/
theorem keyAndDinReadBackTheWordWritten : Obligations.KeyAndDinReadBackTheWordWritten := by
  intro s t rest off v hp hb h4 hlo hhi h
  rw [step_write_idle hp hb h4] at h
  have hlane : off.toNat % 0x10 / 4 < 4 := by omega
  rcases Nat.lt_or_ge off.toNat 0x020 with hkey | hdin
  · have hi : off.toNat = 0x010 + 4 * (⟨_, hlane⟩ : Fin 4) := by dsimp only; omega
    rw [memWrite_key hi] at h
    obtain rfl := Host.Outcome.next.inj h
    exact (memRead_key hi _).trans (pack_writeLanes s.key _ v)
  · have hi : off.toNat = 0x020 + 4 * (⟨_, hlane⟩ : Fin 4) := by dsimp only; omega
    rw [memWrite_din hi] at h
    obtain rfl := Host.Outcome.next.inj h
    exact (memRead_din hi _).trans (pack_writeLanes s.din _ v)

/-- Settles O41: STATE's columns are packed as the registers of the block that Load reads or Unload writes. -/
theorem stateWindowReadsAsTheBlockRegisters : Obligations.StateWindowReadsAsTheBlockRegisters := by
  intro s c
  have hst : BitVec.ofNat 12 (0x040 + 4 * c) = Reg.offset (.st c) := rfl
  have hdout : BitVec.ofNat 12 (0x030 + 4 * c) = Reg.offset (.dout c) := rfl
  have hdin : BitVec.ofNat 12 (0x020 + 4 * c) = Reg.offset (.din c) := rfl
  simp only [hst, hdout, hdin, memRead_offset, readReg]
  refine ⟨⟨succeed { s with dout := unload s.st }, rfl, ?_⟩, ⟨withMatrix (load s.din) s, exec_loadState_16 s, ?_⟩⟩
  · simp only [succeed_st, succeed_dout, pack_unload]
  · simp only [withMatrix, succeed_st, succeed_din, stateColumnWord_load]

/-- Settles O16: the one read is of STATUS, whose bit 2 is BUSY. -/
theorem waitEndsAfterOneRead : Obligations.WaitEndsAfterOneRead := by
  intro s rest hp hb
  refine ⟨_, statusWord s, ?_, rfl, (statusWord_busy s).trans hb⟩
  rw [step_cons hp, perform, waitOnce_of_idle (s := { s with pending := rest }) hb, observe_status]
  rfl

/-- Settles O10: the step is `coreReset`, from any state. -/
theorem resetStepSetsTheWholeRecord : Obligations.ResetStepSetsTheWholeRecord :=
  fun _ _ hp => ⟨_, step_cons hp, rfl⟩

/-- Settles O9: the record is written out with zeros, and every register outside the RK window reads one. -/
theorem resetLeavesTheResetValues : Obligations.ResetLeavesTheResetValues := by
  refine ⟨?_, ?_, ?_, ?_, rfl, rfl, rfl, rfl, rfl, rfl, rfl, fun off hoff => memRead_reset hoff⟩
  all_goals decide

/-- Settles O7: the write's step is `runCommand`, which runs the decoded command. -/
theorem stepRunsTheCommandWrittenToCmd : Obligations.StepRunsTheCommandWrittenToCmd := by
  intro s rest w i hp hb hd
  rw [step_write_cmd hp hb, runCommand_of_decode hd]

/-- Settles O8: there is no access to perform. -/
theorem idleBlockKeepsAllState : Obligations.IdleBlockKeepsAllState :=
  fun _ hp => step_nil hp

end Sys2Proof

/-! ## Commands: NOP, the tables, and the key bytes that are read (R220 to R223, R240, R295) -/

namespace Sys2Proof

open Machine

/-- Settles O26: NOP has no effects before ERR is cleared. -/
theorem nopOnlyClearsErr : Obligations.NopOnlyClearsErr := fun _ => rfl

/-- Settles O47: each command is `byteResult` at its table's entry; the eight named entries are looked up. -/
theorem sboxCommandsWriteTheEntry : Obligations.SboxCommandsWriteTheEntry :=
  ⟨fun arg s => ⟨byteResult_eq (sbox arg) s, byteResult_eq (invSbox arg) s⟩, by decide⟩

/-- Settles O49: the row is a printed constant, checked entry by entry. -/
theorem rconIsRepeatedDoubling : Obligations.RconIsRepeatedDoubling := by
  refine ⟨rfl, by decide, fun r hr j _ => ?_, by decide⟩
  rw [rcon, if_neg hr]

/-- Settles O28: padding replaces the bytes from LEN on, and the schedule is a function of the padded key. -/
theorem keyBytesBeyondLenAreNotRead : Obligations.KeyBytesBeyondLenAreNotRead := by
  intro len s s' hle hagree
  refine ⟨_, _, exec_expandKey_of_le hle s, exec_expandKey_of_le hle s', ?_⟩
  simp only [succeed_rk]
  refine keyExpansion_eq_of_padKey (padKey_eq_of_bytes fun i => ?_)
  split_ifs with hi
  · exact hagree i hi
  · rfl

end Sys2Proof

/-! ## ENCRYPT and DECRYPT when they answer (R294, R298, R299) -/

namespace Sys2Proof.Machine

/-- What a block command leaves: `m` in STATE, its bytes in DOUT, and ERR clear (R298, R299, R407). -/
def withBlock (m : StateMatrix) (s : State) : State := succeed { s with st := m, dout := unload m }

theorem finishBlock_eq_withBlock (m : StateMatrix) (s : State) : finishBlock m s = .next (withBlock m s) := rfl

@[simp] theorem withBlock_dout (m : StateMatrix) (s : State) : (withBlock m s).dout = unload m := rfl

@[simp] theorem withBlock_rk (m : StateMatrix) (s : State) : (withBlock m s).rk = s.rk := by
  simp only [withBlock, succeed_rk]

@[simp] theorem withBlock_ksValid (m : StateMatrix) (s : State) : (withBlock m s).ksValid = s.ksValid := by
  simp only [withBlock, succeed_ksValid]

@[simp] theorem withBlock_busy (m : StateMatrix) (s : State) : (withBlock m s).busy = s.busy := by
  simp only [withBlock, succeed_busy]

@[simp] theorem withBlock_observed (m : StateMatrix) (s : State) : (withBlock m s).observed = s.observed := by
  simp only [withBlock, succeed_observed]

theorem exec_encrypt_16 {s : State} (hvalid : s.ksValid = true) :
    exec (.encrypt 16) s = .next (withBlock (cipher (load s.din) s.rk) s) := by
  rw [exec_encrypt_of_valid hvalid, finishBlock_eq_withBlock]

theorem exec_decrypt_16 {s : State} (hvalid : s.ksValid = true) :
    exec (.decrypt 16) s = .next (withBlock (invCipher (load s.din) s.rk) s) := by
  rw [exec_decrypt_of_valid hvalid, finishBlock_eq_withBlock]

end Sys2Proof.Machine

namespace Sys2Proof

open Machine

/-- Settles O39: the second command loads what the first unloaded, under the same RK. -/
theorem decryptAfterEncryptReturnsDin : Obligations.DecryptAfterEncryptReturnsDin := by
  intro s hvalid
  have hvalid' (m : StateMatrix) (d : Block) : ({ withBlock m s with din := d } : State).ksValid = true :=
    (withBlock_ksValid m s).trans hvalid
  refine ⟨⟨withBlock _ s, _, exec_encrypt_16 hvalid, exec_decrypt_16 (hvalid' _ _), ?_⟩,
    ⟨withBlock _ s, _, exec_decrypt_16 hvalid, exec_encrypt_16 (hvalid' _ _), ?_⟩⟩
  · simp only [withBlock_dout, withBlock_rk, load_unload, invCipher_cipher, unload_load]
  · simp only [withBlock_dout, withBlock_rk, load_unload, cipher_invCipher, unload_load]

end Sys2Proof

/-! ## The block commands one transform at a time (R292, R293, R415) -/

namespace Sys2Proof.Machine

theorem execAll_cons_of_next {i : Instr} {s t : State} (h : exec i s = .next t) (is : List Instr) :
    execAll (i :: is) s = execAll is t := by
  rw [execAll, h]

theorem execAll_append_of_next {is : List Instr} {s t : State} (h : execAll is s = .next t) (js : List Instr) :
    execAll (is ++ js) s = execAll js t := by
  induction is generalizing s with
  | nil =>
    obtain rfl := Host.Outcome.next.inj h
    rfl
  | cons i is ih =>
    obtain ⟨u, hu⟩ := exec_answers i s
    rw [execAll_cons_of_next hu] at h
    rw [List.cons_append, execAll_cons_of_next hu, ih h]

/-! ### The commands on such a state -/

theorem exec_subBytes_withMatrix (m : StateMatrix) (s : State) :
    exec .subBytes (withMatrix m s) = .next (withMatrix (subBytes m) s) := rfl

theorem exec_shiftRows_withMatrix (m : StateMatrix) (s : State) :
    exec .shiftRows (withMatrix m s) = .next (withMatrix (shiftRows m) s) := rfl

theorem exec_mixColumns_withMatrix (m : StateMatrix) (s : State) :
    exec .mixColumns (withMatrix m s) = .next (withMatrix (mixColumns m) s) := rfl

theorem exec_invSubBytes_withMatrix (m : StateMatrix) (s : State) :
    exec .invSubBytes (withMatrix m s) = .next (withMatrix (invSubBytes m) s) := rfl

theorem exec_invShiftRows_withMatrix (m : StateMatrix) (s : State) :
    exec .invShiftRows (withMatrix m s) = .next (withMatrix (invShiftRows m) s) := rfl

theorem exec_invMixColumns_withMatrix (m : StateMatrix) (s : State) :
    exec .invMixColumns (withMatrix m s) = .next (withMatrix (invMixColumns m) s) := rfl

theorem exec_addRoundKey_withMatrix {s : State} (hvalid : s.ksValid = true) (m : StateMatrix) (k : Fin 11) :
    exec (.addRoundKey k) (withMatrix m s) = .next (withMatrix (addRoundKey m s.rk k) s) :=
  exec_addRoundKey_of_valid (s := withMatrix m s) hvalid k.isLt

theorem exec_storeState_withMatrix (m : StateMatrix) (s : State) :
    exec .storeState (withMatrix m s) = .next (withBlock m s) := by
  simp only [exec, execStoreState, complete_eq, withMatrix, withBlock, succeed]

/-! ### The rounds -/

/-- The commands of one round of Cipher (R292). -/
def cipherRoundSteps (k : Fin 11) : List Instr := [.subBytes, .shiftRows, .mixColumns, .addRoundKey k]

/-- The commands of one round of InvCipher (R293). -/
def invCipherRoundSteps (k : Fin 11) : List Instr := [.invShiftRows, .invSubBytes, .addRoundKey k, .invMixColumns]

theorem encryptSteps_eq : encryptSteps =
    Instr.loadState 16 :: Instr.addRoundKey (0 : Fin 11) :: (middleRounds.flatMap cipherRoundSteps
      ++ [Instr.subBytes, Instr.shiftRows, Instr.addRoundKey (10 : Fin 11), Instr.storeState]) := by decide

theorem decryptSteps_eq : decryptSteps =
    Instr.loadState 16 :: Instr.addRoundKey (10 : Fin 11) :: (middleRounds.reverse.flatMap invCipherRoundSteps
      ++ [Instr.invShiftRows, Instr.invSubBytes, Instr.addRoundKey (0 : Fin 11), Instr.storeState]) := by decide

theorem execAll_cipherRoundSteps {s : State} (hvalid : s.ksValid = true) (m : StateMatrix) (k : Fin 11) :
    execAll (cipherRoundSteps k) (withMatrix m s) = .next (withMatrix (cipherRound s.rk m k) s) := by
  rw [cipherRoundSteps, execAll_cons_of_next (exec_subBytes_withMatrix m s),
    execAll_cons_of_next (exec_shiftRows_withMatrix _ s), execAll_cons_of_next (exec_mixColumns_withMatrix _ s),
    execAll_cons_of_next (exec_addRoundKey_withMatrix hvalid _ k), execAll, cipherRound]

theorem execAll_invCipherRoundSteps {s : State} (hvalid : s.ksValid = true) (m : StateMatrix) (k : Fin 11) :
    execAll (invCipherRoundSteps k) (withMatrix m s) = .next (withMatrix (invCipherRound s.rk m k) s) := by
  rw [invCipherRoundSteps, execAll_cons_of_next (exec_invShiftRows_withMatrix m s),
    execAll_cons_of_next (exec_invSubBytes_withMatrix _ s),
    execAll_cons_of_next (exec_addRoundKey_withMatrix hvalid _ k),
    execAll_cons_of_next (exec_invMixColumns_withMatrix _ s), execAll, invCipherRound]

/-- When the commands of a round compute `f`, those of several rounds compute its fold. -/
theorem execAll_flatMap {steps : Fin 11 → List Instr} {f : StateMatrix → Fin 11 → StateMatrix} {s : State}
    (hround : ∀ m k, execAll (steps k) (withMatrix m s) = .next (withMatrix (f m k) s)) (m : StateMatrix)
    (ks : List (Fin 11)) :
    execAll (ks.flatMap steps) (withMatrix m s) = .next (withMatrix (ks.foldl f m) s) := by
  induction ks generalizing m with
  | nil => rfl
  | cons k ks ih => rw [List.flatMap_cons, execAll_append_of_next (hround m k), ih, List.foldl_cons]

theorem execAll_singleton (i : Instr) (s : State) : execAll [i] s = exec i s := by
  obtain ⟨t, ht⟩ := exec_answers i s
  rw [execAll_cons_of_next ht, ht, execAll]

theorem execAll_encryptSteps {s : State} (hvalid : s.ksValid = true) :
    execAll encryptSteps s = exec (.encrypt 16) s := by
  rw [encryptSteps_eq, execAll_cons_of_next (exec_loadState_16 s),
    execAll_cons_of_next (exec_addRoundKey_withMatrix hvalid _ 0),
    execAll_append_of_next (execAll_flatMap (execAll_cipherRoundSteps hvalid) _ middleRounds),
    execAll_cons_of_next (exec_subBytes_withMatrix _ s), execAll_cons_of_next (exec_shiftRows_withMatrix _ s),
    execAll_cons_of_next (exec_addRoundKey_withMatrix hvalid _ 10), execAll_singleton, exec_storeState_withMatrix,
    exec_encrypt_16 hvalid, cipher_eq]

theorem execAll_decryptSteps {s : State} (hvalid : s.ksValid = true) :
    execAll decryptSteps s = exec (.decrypt 16) s := by
  rw [decryptSteps_eq, execAll_cons_of_next (exec_loadState_16 s),
    execAll_cons_of_next (exec_addRoundKey_withMatrix hvalid _ 10),
    execAll_append_of_next (execAll_flatMap (execAll_invCipherRoundSteps hvalid) _ middleRounds.reverse),
    execAll_cons_of_next (exec_invShiftRows_withMatrix _ s), execAll_cons_of_next (exec_invSubBytes_withMatrix _ s),
    execAll_cons_of_next (exec_addRoundKey_withMatrix hvalid _ 0), execAll_singleton, exec_storeState_withMatrix,
    exec_decrypt_16 hvalid, invCipher_eq]

end Sys2Proof.Machine

namespace Sys2Proof

open Machine

/-- Settles O37: each command leaves its transform of STATE and clears ERR, so the commands compose as the ciphers'
transforms do. -/
theorem blockCommandsEqualTheirStepModeCommands : Obligations.BlockCommandsEqualTheirStepModeCommands :=
  fun _ hvalid => ⟨execAll_encryptSteps hvalid, execAll_decryptSteps hvalid⟩

end Sys2Proof

/-! ## The framing functions' errors (R323, R324) -/

namespace Sys2Proof

open Machine

/-- Settles O53: the length of the key is checked first, then that of the ciphertext. -/
theorem streamFunctionsRaiseOnBadLengths : Obligations.StreamFunctionsRaiseOnBadLengths := by
  intro s key
  refine ⟨fun hkey => ⟨?_, ?_⟩, fun hkey hlen => ?_⟩
  · rw [encryptStream, if_pos hkey]
  · rw [decryptStream, if_pos hkey]
  · rw [decryptStream, if_neg (Nat.not_lt.mpr hkey), if_pos hlen]

end Sys2Proof

/-! ## The accesses a host makes in a row (R88, R129) -/

namespace Sys2Proof.Machine

/-- The accesses `acts` take the block from `s` to `t`, whatever the host has pending after them. -/
def Runs (acts : List HostAction) (s t : State) : Prop :=
  ∀ rest, Reaches { s with pending := acts ++ rest } { t with pending := rest }

theorem Runs.nil (s : State) : Runs [] s s := fun _ => .refl _

theorem Runs.append {as bs : List HostAction} {s t u : State} (h : Runs as s t) (h' : Runs bs t u) :
    Runs (as ++ bs) s u := by
  intro rest
  rw [List.append_assoc]
  exact (h (bs ++ rest)).trans (h' rest)

theorem Runs.of_perform {a : HostAction} {s t : State}
    (h : ∀ rest, perform a { s with pending := rest } = .next { t with pending := rest }) : Runs [a] s t :=
  fun rest => .one ((step_cons rfl).trans (h rest))

/-- Accesses of one shape to several registers, each of which leaves the block idle. -/
theorem Runs.map {act : Fin 4 → HostAction} {f : State → Fin 4 → State}
    (hrun : ∀ s i, s.busy = false → Runs [act i] s (f s i)) (hidle : ∀ s i, (f s i).busy = s.busy) (is : List (Fin 4))
    {s : State} (hb : s.busy = false) : Runs (is.map act) s (is.foldl f s) := by
  induction is generalizing s with
  | nil => exact .nil s
  | cons i is ih => exact (hrun s i hb).append (ih ((hidle s i).trans hb))

/-! ### One access -/

theorem offset_aligned (reg : Reg) : reg.offset.toNat % 4 = 0 := by
  rw [offset_toNat]
  cases reg <;> dsimp only <;> omega

theorem runs_read (reg : Reg) (claim : Option Word) {s : State} (hb : s.busy = false) :
    Runs [.read reg.offset 4 claim] s (observe reg.offset claim s) :=
  .of_perform fun rest => perform_read_idle (s := { s with pending := rest }) (offset_aligned reg) hb claim

theorem runs_wait {s : State} (hb : s.busy = false) : Runs [.wait] s (observe (Reg.offset .status) none s) :=
  .of_perform fun rest => congrArg Host.Outcome.next (waitOnce_of_idle (s := { s with pending := rest }) hb)

theorem runs_wrKey (i : Fin 4) (v : Word) {s : State} (hb : s.busy = false) :
    Runs [wrReg (.key i) v] s { s with key := writeLanes s.key i v } :=
  .of_perform fun rest => (perform_write_idle (s := { s with pending := rest }) (offset_aligned (.key i)) hb v).trans
    (memWrite_key (offset_toNat (.key i)) v _)

theorem runs_wrDin (i : Fin 4) (v : Word) {s : State} (hb : s.busy = false) :
    Runs [wrReg (.din i) v] s { s with din := writeLanes s.din i v } :=
  .of_perform fun rest => (perform_write_idle (s := { s with pending := rest }) (offset_aligned (.din i)) hb v).trans
    (memWrite_din (offset_toNat (.din i)) v _)

/-- A command is the command that its word decodes to. -/
theorem runs_wrCommand {i : Instr} (hwf : i.wellFormed = true) {s t : State} (hb : s.busy = false)
    (hexec : ∀ rest, exec i { s with cmd := encode i, pending := rest } = .next { t with pending := rest }) :
    Runs [wrCommand i] s t :=
  .of_perform fun rest => by
    rw [wrCommand, wrReg, perform_write_idle (s := { s with pending := rest }) (offset_aligned .cmd) hb, memWrite_cmd,
      runCommand_of_decode (decode_encode hwf)]
    exact hexec rest

/-! ### A block's four words (R82) -/

theorem unpack_pack (b : Block) (i j : Fin 4) : unpack (pack b i) j = b.byte ⟨4 * i + j, by omega⟩ := by
  apply BitVec.eq_of_toNat_eq
  rw [unpack_toNat, pack_lane]

/-- Writing all four words of `b` leaves none of the bytes that were there. -/
theorem foldl_writeLanes_pack (b b' : Block) :
    ([0, 1, 2, 3] : List (Fin 4)).foldl (fun d i => writeLanes d i (pack b i)) b' = b := by
  refine Block.ext_byte fun n => ?_
  have hlane (i : Fin 4) (h : n.val / 4 = i.val) : unpack (pack b i) ⟨n.val % 4, by omega⟩ = b.byte n := by
    rw [unpack_pack]
    congr 1
    apply Fin.ext
    dsimp only
    omega
  simp only [List.foldl_cons, List.foldl_nil, writeLanes_byte]
  split_ifs with h3 h2 h1 h0
  · exact hlane 3 h3
  · exact hlane 2 h2
  · exact hlane 1 h1
  · exact hlane 0 h0
  · omega

theorem blockBytes_eq_flatMap_wordBytes (b : Block) :
    blockBytes b = ([0, 1, 2, 3] : List (Fin 4)).flatMap fun i => wordBytes (pack b i) := by
  have hofFn : blockBytes b = List.ofFn b.byte := by
    apply List.ext_getElem
    · simp
    · intro i _ _
      rw [List.getElem_ofFn]
      rfl
  rw [hofFn]
  simp [wordBytes, unpack_pack, List.ofFn_succ]

theorem runs_writeKey (b : Block) {s : State} (hb : s.busy = false) : Runs (writeKey b) s { s with key := b } := by
  have hrun := Runs.map (f := fun s i => { s with key := writeLanes s.key i (pack b i) })
    (fun _ i hb => runs_wrKey i (pack b i) hb) (fun _ _ => rfl) [0, 1, 2, 3] hb
  have hkey := foldl_writeLanes_pack b s.key
  simp only [List.foldl_cons, List.foldl_nil] at hrun hkey
  rwa [hkey] at hrun

theorem runs_writeDin (b : Block) {s : State} (hb : s.busy = false) : Runs (writeDin b) s { s with din := b } := by
  have hrun := Runs.map (f := fun s i => { s with din := writeLanes s.din i (pack b i) })
    (fun _ i hb => runs_wrDin i (pack b i) hb) (fun _ _ => rfl) [0, 1, 2, 3] hb
  have hdin := foldl_writeLanes_pack b s.din
  simp only [List.foldl_cons, List.foldl_nil] at hrun hdin
  rwa [hdin] at hrun

end Sys2Proof.Machine

/-! ## The lines of the framing functions, run on the block (R130, R328) -/

namespace Sys2Proof.Machine

/-! ### What a read adds to the host's observations -/

theorem claimsHeld_observe (off : Offset) (claim : Option Word) (s : State) :
    (observe off claim s).claimsHeld = (s.claimsHeld && Observation.claimHeld ⟨off, memRead off s, claim⟩) := by
  simp [State.claimsHeld]

theorem doutBytes_observe_dout (i : Fin 4) (claim : Option Word) (s : State) :
    (observe (Reg.offset (.dout i)) claim s).doutBytes = s.doutBytes ++ wordBytes (pack s.dout i) := by
  simp [State.doutBytes, Observation.ofDout, regAt_offset, memRead_offset, readReg, List.filter_append]

theorem doutBytes_observe_status (claim : Option Word) (s : State) :
    (observe (Reg.offset .status) claim s).doutBytes = s.doutBytes := by
  simp [State.doutBytes, Observation.ofDout, regAt_offset, List.filter_append]

theorem doutBytes_observe_err (claim : Option Word) (s : State) :
    (observe (Reg.offset .err) claim s).doutBytes = s.doutBytes := by
  simp [State.doutBytes, Observation.ofDout, regAt_offset, List.filter_append]

/-! ### The block between two lines -/

/-- The block is idle with the schedule `rk`, and every claim made so far held. -/
structure Ready (rk : Schedule) (s : State) : Prop where
  idle : s.busy = false
  ksValid : s.ksValid = true
  rk_eq : s.rk = rk
  claimsHeld : s.claimsHeld = true

theorem Ready.observe {rk : Schedule} {s : State} (h : Ready rk s) (off : Offset) : Ready rk (observe off none s) := by
  obtain ⟨hidle, hvalid, hrk, hclaims⟩ := h
  exact ⟨hidle, hvalid, hrk, by rw [claimsHeld_observe, hclaims]; rfl⟩

/-- `acts` keep the block ready with the schedule `rk`, and let the host read the bytes `out` in DOUT. -/
def Emits (rk : Schedule) (acts : List HostAction) (s : State) (out : List Byte) : Prop :=
  ∃ t, Runs acts s t ∧ Ready rk t ∧ t.doutBytes = s.doutBytes ++ out

theorem Emits.append {rk : Schedule} {as bs : List HostAction} {s : State} {out out' : List Byte}
    (h : Emits rk as s out) (h' : ∀ t, Ready rk t → Emits rk bs t out') : Emits rk (as ++ bs) s (out ++ out') := by
  obtain ⟨t, hrun, hready, hout⟩ := h
  obtain ⟨u, hrun', hready', hout'⟩ := h' t hready
  exact ⟨u, hrun.append hrun', hready', by rw [hout', hout, List.append_assoc]⟩

theorem emits_nil {rk : Schedule} {s : State} (h : Ready rk s) : Emits rk [] s [] :=
  ⟨s, .nil s, h, (List.append_nil _).symm⟩

theorem emits_readDout {rk : Schedule} (is : List (Fin 4)) {s : State} (h : Ready rk s) :
    Emits rk (is.map fun i => rdReg (.dout i)) s (is.flatMap fun i => wordBytes (pack s.dout i)) := by
  induction is generalizing s with
  | nil => exact emits_nil h
  | cons i is ih =>
    obtain ⟨t, hrun, hready, hout⟩ := ih (h.observe (Reg.offset (.dout i)))
    refine ⟨t, (runs_read (.dout i) none h.idle).append hrun, hready, ?_⟩
    rw [hout, doutBytes_observe_dout, observe_dout, List.append_assoc, List.flatMap_cons]

/-- What a block command leaves whose input was written before it: `b` in DIN, `m` in STATE and DOUT (R130). -/
def withBlockCommand (i : Instr) (b : Block) (m : StateMatrix) (s : State) : State :=
  withBlock m { s with din := b, cmd := encode i }

theorem withBlockCommand_dout (i : Instr) (b : Block) (m : StateMatrix) (s : State) :
    (withBlockCommand i b m s).dout = unload m := by
  rw [withBlockCommand, withBlock_dout]

theorem withBlockCommand_observed (i : Instr) (b : Block) (m : StateMatrix) (s : State) :
    (withBlockCommand i b m s).observed = s.observed := by
  simp only [withBlockCommand, withBlock_observed]

theorem Ready.withBlockCommand {rk : Schedule} {s : State} (h : Ready rk s) (i : Instr) (b : Block)
    (m : StateMatrix) : Ready rk (withBlockCommand i b m s) := by
  obtain ⟨hidle, hvalid, hrk, hclaims⟩ := h
  exact ⟨(withBlock_busy m _).trans hidle, (withBlock_ksValid m _).trans hvalid, (withBlock_rk m _).trans hrk,
    by rwa [State.claimsHeld, withBlockCommand_observed]⟩

/-- `encrypt_block` and `decrypt_block`: DIN is written, the block command runs, and DOUT is read (R130). -/
theorem emits_block {rk : Schedule} {i : Instr} {f : Block → StateMatrix} (hwf : i.wellFormed = true)
    (hexec : ∀ s, s.ksValid = true → s.rk = rk → exec i s = .next (withBlock (f s.din) s)) (b : Block) {s : State}
    (h : Ready rk s) :
    Emits rk (writeDin b ++ [wrCommand i, .wait] ++ readDout) s (blockBytes (unload (f b))) := by
  have hready : Ready rk (withBlockCommand i b (f b) s) := h.withBlockCommand i b (f b)
  have hcommand : Runs [wrCommand i] { s with din := b } (withBlockCommand i b (f b) s) :=
    runs_wrCommand hwf h.idle fun rest =>
      hexec { s with din := b, cmd := encode i, pending := rest } h.ksValid h.rk_eq
  obtain ⟨t, hread, ht, hout⟩ := emits_readDout [0, 1, 2, 3] (hready.observe (Reg.offset .status))
  refine ⟨t, ?_, ht, ?_⟩
  · exact ((runs_writeDin b h.idle).append (hcommand.append (runs_wait hready.idle))).append hread
  · rw [hout, doutBytes_observe_status, observe_dout, withBlockCommand_dout, State.doutBytes,
      withBlockCommand_observed, State.doutBytes, blockBytes_eq_flatMap_wordBytes]

theorem emits_encryptBlock (b : Block) {rk : Schedule} {s : State} (h : Ready rk s) :
    Emits rk (Line.encryptBlock b).expand s (encryptBytes rk b) :=
  emits_block (f := fun d => cipher (load d) rk) rfl (fun _ hvalid hrk => hrk ▸ exec_encrypt_16 hvalid) b h

theorem emits_decryptBlock (b : Block) {rk : Schedule} {s : State} (h : Ready rk s) :
    Emits rk (Line.decryptBlock b).expand s (decryptBytes rk b) :=
  emits_block (f := fun d => invCipher (load d) rk) rfl (fun _ hvalid hrk => hrk ▸ exec_decrypt_16 hvalid) b h

theorem expandLines_append (ls ls' : List Line) : expandLines (ls ++ ls') = expandLines ls ++ expandLines ls' :=
  List.flatMap_append

/-- Lines that each emit some bytes emit them one after the other. -/
theorem emits_lines {rk : Schedule} {line : Nat → Line} {out : Nat → List Byte}
    (hline : ∀ j s, Ready rk s → Emits rk (line j).expand s (out j)) (js : List Nat) {s : State} (h : Ready rk s) :
    Emits rk (expandLines (js.map line)) s (js.flatMap out) := by
  induction js generalizing s with
  | nil => exact emits_nil h
  | cons j js ih => exact (hline j s h).append fun t ht => ih ht

/-! ### The lines' start: `setkey` and `check` -/

theorem errWord_succeed (s : State) : errWord (succeed s) = 0 := by
  simp only [errWord, succeed_errOp, succeed_errVal, succeed_errKind]
  decide

/-- What `setkey` leaves: the key's bytes in KEY, and their schedule in RK (R130, R247). -/
def withStreamKey (key : List Byte) (s : State) : State :=
  succeed { s with
    key := blockOf key, cmd := encode (.expandKey key.length), rk := streamSchedule key, ksValid := true }

theorem withStreamKey_rk (key : List Byte) (s : State) : (withStreamKey key s).rk = streamSchedule key := by
  simp only [withStreamKey, succeed_rk]

theorem withStreamKey_ksValid (key : List Byte) (s : State) : (withStreamKey key s).ksValid = true := by
  simp only [withStreamKey, succeed_ksValid]

theorem withStreamKey_busy (key : List Byte) (s : State) : (withStreamKey key s).busy = s.busy := by
  simp only [withStreamKey, succeed_busy]

theorem withStreamKey_observed (key : List Byte) (s : State) : (withStreamKey key s).observed = s.observed := by
  simp only [withStreamKey, succeed_observed]

theorem memRead_err_withStreamKey (key : List Byte) (s : State) :
    memRead (Reg.offset .err) (withStreamKey key s) = 0 := by
  rw [memRead_offset, withStreamKey, readReg, errWord_succeed]

theorem runs_setkey {key : List Byte} (hkey : key.length ≤ 16) {s : State} (hb : s.busy = false) :
    Runs (Line.setkey key).expand s (withStreamKey key s) := by
  have hwf : (Instr.expandKey key.length).wellFormed = true := decide_eq_true (by omega)
  refine (runs_writeKey (blockOf key) hb).append (runs_wrCommand hwf hb fun rest => ?_)
  rw [exec_expandKey_of_le hkey]
  simp only [complete_eq, withStreamKey, succeed, streamSchedule]

/-- The schedule is expanded from the key's bytes, and the claim that ERR reads 0 holds (R328). -/
theorem emits_setkey_check {key : List Byte} (hkey : key.length ≤ 16) {s : State} (hb : s.busy = false)
    (hclaims : s.claimsHeld = true) :
    Emits (streamSchedule key) (expandLines [Line.setkey key, Line.check]) s [] := by
  have hidle : (withStreamKey key s).busy = false := (withStreamKey_busy key s).trans hb
  have hheld : (observe (Reg.offset .err) (some 0) (withStreamKey key s)).claimsHeld = true := by
    rw [claimsHeld_observe, memRead_err_withStreamKey, State.claimsHeld, withStreamKey_observed]
    exact (Bool.and_true _).trans hclaims
  refine ⟨_, (runs_setkey hkey hb).append (runs_read .err (some 0) hidle), ⟨hidle, ?_, ?_, hheld⟩, ?_⟩
  · rw [observe_ksValid, withStreamKey_ksValid]
  · rw [observe_rk, withStreamKey_rk]
  · rw [doutBytes_observe_err, State.doutBytes, withStreamKey_observed, List.append_nil, State.doutBytes]

/-! ### A whole run -/

/-- The lines of a framing function run from any idle block to their end. -/
theorem run_framing {key : List Byte} (hkey : key.length ≤ 16) {line : Nat → Line} {out : Nat → List Byte}
    (hline : ∀ j s, Ready (streamSchedule key) s → Emits (streamSchedule key) (line j).expand s (out j))
    (js : List Nat) {s : State} (hb : s.busy = false) (hp : s.pending = []) (ho : s.observed = []) :
    ∃ k t, Sys2Proof.core.run k (s.withLines ([Line.setkey key, Line.check] ++ js.map line)) = .next t
      ∧ t.runEnded = true ∧ t.claimsHeld = true ∧ t.doutBytes = js.flatMap out := by
  have hclaims : s.claimsHeld = true := by rw [State.claimsHeld, ho, List.all_nil]
  have hnone : s.doutBytes = [] := by rw [State.doutBytes, ho]; rfl
  obtain ⟨t, hrun, ht, hout⟩ := (emits_setkey_check hkey hb hclaims).append fun t ht => emits_lines hline js ht
  have hreach := hrun []
  rw [← expandLines_append, List.append_nil] at hreach
  obtain ⟨k, hk⟩ := hreach.run
  refine ⟨k, { t with pending := [] }, ?_, ?_, ht.claimsHeld, ?_⟩
  · rw [State.withLines, hp, List.nil_append]
    exact hk
  · simp [State.runEnded, ht.idle]
  · exact hout.trans (by rw [hnone, List.nil_append, List.nil_append])

theorem encryptStreamLines_eq_ok {s key : List Byte} {lines : List Line} (h : encryptStreamLines s key = .ok lines) :
    key.length ≤ 16 ∧ lines = [Line.setkey key, Line.check]
      ++ (List.range (chunkCount s.length)).map fun j => Line.encryptBlock (framedBlock s j) := by
  unfold encryptStreamLines at h
  split at h
  next => cases h
  next hkey => exact ⟨Nat.not_lt.mp hkey, (Except.ok.inj h).symm⟩

theorem decryptStreamLines_eq_ok {s key : List Byte} {lines : List Line} (h : decryptStreamLines s key = .ok lines) :
    key.length ≤ 16 ∧ s.length % 16 = 0 ∧ lines = [Line.setkey key, Line.check]
      ++ (List.range (s.length / 16)).map fun j => Line.decryptBlock (blockOf (chunk s j)) := by
  unfold decryptStreamLines at h
  split at h
  next => cases h
  next hkey =>
    split at h
    next => cases h
    next hlen => exact ⟨Nat.not_lt.mp hkey, not_not.mp hlen, (Except.ok.inj h).symm⟩

end Sys2Proof.Machine

namespace Sys2Proof

open Machine

/-- Settles O54: `setkey` and `check` leave the stream's schedule and a claim that holds, and each block's line, run
from there, lets the host read the block's bytes. -/
theorem framingRunsOnTheBlock : Obligations.FramingRunsOnTheBlock := by
  intro s stream key lines hb hp ho
  refine ⟨fun hlines => ?encrypt, fun hlines => ?decrypt⟩
  case encrypt =>
    obtain ⟨hkey, rfl⟩ := encryptStreamLines_eq_ok hlines
    obtain ⟨k, t, hk, hended, hclaims, hout⟩ := run_framing hkey
      (fun j _ ht => emits_encryptBlock (framedBlock stream j) ht) (List.range (chunkCount stream.length)) hb hp ho
    exact ⟨k, t, hk, hended, hclaims, (encryptStream_eq_ok_iff _ _ _).mpr ⟨hkey, hout.symm⟩⟩
  case decrypt =>
    obtain ⟨hkey, hlen, rfl⟩ := decryptStreamLines_eq_ok hlines
    obtain ⟨k, t, hk, hended, hclaims, hout⟩ := run_framing hkey
      (fun j _ ht => emits_decryptBlock (blockOf (chunk stream j)) ht) (List.range (stream.length / 16)) hb hp ho
    exact ⟨k, t, hk, hended, hclaims, (decryptStream_eq_ok_iff _ _ _).mpr ⟨hkey, hlen, congrArg strip hout.symm⟩⟩

end Sys2Proof
